-- ==== Sys2Proof/Word.lean ====
section
/-! DEFINITION. The words of the hardware: the unsigned types of rule R9, the Pixel of four separate channels, and the
two pixels the spec names as initial values. -/

namespace Sys2Proof

/-- `u8` of rule R9: one channel, one byte of a stream. -/
abbrev Byte := BitVec 8

/-- A Pixel: four 8-bit unsigned channels (rules R9, R125). It is never packed into one word. -/
structure Pixel where
  r : Byte
  g : Byte
  b : Byte
  a : Byte
  deriving DecidableEq, Repr, Inhabited

/-- (0,0,0,0): what every cache slot starts as (rule R28). -/
def Pixel.clear : Pixel := ⟨0, 0, 0, 0⟩

/-- (0,0,0,255), fully opaque black: what `prev` starts as (rules R22, R28). -/
def Pixel.black : Pixel := ⟨0, 0, 0, 255⟩

/-- The pixel cache: a register file of 64 registers of one Pixel each (rule R21). -/
abbrev Slots := Vector Pixel 64

end Sys2Proof
end

