-- ==== Sys2Proof/Config.lean ====
section
/-! DEFINITION. What the spec fixes for every implementation (rule R6: none of it is an argument), the one open parameter
of decision D10, and the free values of rule R301. -/

namespace Sys2Proof.Config

/-- `RUN_MAX` of rule R6. -/
def runMax : BitVec 6 := 62

/-- The magic `qoif` as bytes (rule R95). PRESUMED by the spec itself (its G1: the ASCII codes); log entry 14. -/
def magic : List Byte := [0x71, 0x6F, 0x69, 0x66]

/-- The trailer, seven bytes 0x00 and one byte 0x01 (rule R97). -/
def trailer : List Byte := [0, 0, 0, 0, 0, 0, 0, 1]

/-- Parameter `DEC_READS_TRAILER` (decision D10, U20): the rules are written for false. Log entry 12. -/
def decReadsTrailer : Bool := false

/-- FREE VALUE: the cache from the k-th error to the next initialisation (rule R301, U7). Log entry 5. -/
opaque freeCache : Nat → Slots

/-- FREE VALUE: `prev` after the k-th error (rule R301, U7). Log entry 5. -/
opaque freePrev : Nat → Pixel

/-- FREE VALUE: `run` after the k-th error (rule R301, U7). Log entry 5. -/
opaque freeRun : Nat → BitVec 6

/-- FREE VALUE: `PIXDONE` after the k-th error (rule R301, U7). Log entry 5. -/
opaque freePixDone : Nat → BitVec 64

/-- FREE VALUE: `PIXTOTAL` after the k-th error (rule R301, U7). Log entry 5. -/
opaque freePixTotal : Nat → BitVec 64

/-- FREE VALUE: `META_WIDTH` after the k-th error, where that is a decode error in phase HEADER (rules R268, R332, U8).
Log entry 6. -/
opaque freeMetaWidth : Nat → BitVec 32

/-- FREE VALUE: `META_HEIGHT`, as `freeMetaWidth`. Log entry 6. -/
opaque freeMetaHeight : Nat → BitVec 32

/-- FREE VALUE: `META_CHANNELS`, as `freeMetaWidth`. Log entry 6. -/
opaque freeMetaChannels : Nat → Byte

/-- FREE VALUE: `META_COLORSPACE`, as `freeMetaWidth`. Log entry 6. -/
opaque freeMetaColorspace : Nat → Byte

end Sys2Proof.Config
end

