-- ==== Sys2Proof/Syntax.lean ====
section
/-! DEFINITION. The instruction set: the six chunk kinds (rule R2), fields as rules R11 and R81 give them: difference
fields in their biased, stored form, `RUN` with its count and never the stored value. -/

namespace Sys2Proof

/-- An `Op` (rules R11, R81), one constructor a row of spec/opcode_table.json, in the table's order. -/
inductive Instr where
  /-- `RGB r, g, b`: three literal channels (rule R196). -/
  | rgb (r g b : Byte)
  /-- `RGBA r, g, b, a`: four literal channels (rule R197). -/
  | rgba (r g b a : Byte)
  /-- `INDEX idx`: a cache slot number (rule R193). -/
  | index (idx : BitVec 6)
  /-- `COLOR dr, dg, db`: deltas biased by 2 (rule R194). -/
  | color (dr dg db : BitVec 2)
  /-- `LUMA dg, drg, dbg`: `dg` biased by 32, the others by 8 (rule R195). -/
  | luma (dg : BitVec 6) (drg dbg : BitVec 4)
  /-- `RUN count`: the count 1..62 of pixels equal to `prev` (rule R198). -/
  | run (count : BitVec 6)
  deriving DecidableEq, Repr

/-- A `DiffKind` (rule R11): what `diff` answers and `from_diff` takes, fields biased as in a chunk. -/
inductive DiffKind where
  | color (dr dg db : BitVec 2)
  | luma (dg : BitVec 6) (drg dbg : BitVec 4)
  deriving DecidableEq, Repr

end Sys2Proof
end

