-- ==== Sys2Proof/Machine/State.lean ====
section
/-! DEFINITION. The state of the hardware, exactly the registers rule R20 lists, with the unfinished step's progress
(rule R41) and, beside it, the model's own plain data for what R20 calls the parameters of the step relation (port
answers, host events) and the event history. -/

namespace Sys2Proof.Machine

/-- `MODE` (rule R32): 0 = ENC, 1 = DEC. -/
inductive Mode where
  | enc | dec
  deriving DecidableEq, Repr

/-- `PHASE` (rule R37): codes 0 to 6 in this order; code 7 is never written, so it has no name. -/
inductive Phase where
  | idle | header | body | trailer | flush | done | error
  deriving DecidableEq, Repr

/-- `ERR_KIND` (rules R38, R290): codes 0 to 7 in this order. -/
inductive ErrKind where
  | none | invalidHeader | invalidColorspace | invalidDimensions | invalidIndex | unexpectedEof | unknownTag | ioError
  deriving DecidableEq, Repr

/-- The seven error kinds of rule R290 with the byte that three of them carry. `invalidIndex` and `unknownTag` are never
raised (rules R294, R296). -/
inductive CoreError where
  | invalidHeader
  | invalidColorspace (byte : Byte)
  | invalidDimensions
  | invalidIndex (byte : Byte)
  | unexpectedEof
  | unknownTag (byte : Byte)
  | ioError
  deriving DecidableEq, Repr

/-- An answer of the byte source to one `SrcRead()` (rule R53). -/
inductive SrcAnswer where
  | byte (b : Byte)
  | eof
  | ioErr
  deriving DecidableEq, Repr

/-- An answer of the byte sink to one `SnkWrite(b)` or to `SnkFlush()` (rules R54, R55). -/
inductive SnkAnswer where
  | ok
  | ioErr
  deriving DecidableEq, Repr

/-- One answered port operation, as the event history records it (rule R20). -/
inductive PortEvent where
  /-- `SrcRead()` answered `Byte(b)` -/
  | readByte (b : Byte)
  /-- `SrcRead()` answered `Eof` -/
  | readEof
  /-- `SrcRead()` answered `IoErr` -/
  | readIoErr
  /-- `SnkWrite(b)` answered `Ok`: the byte is appended to the sink stream -/
  | wrote (b : Byte)
  /-- `SnkWrite(b)` answered `IoErr`: the byte is not appended -/
  | writeIoErr (b : Byte)
  /-- `SnkFlush()` answered `Ok` -/
  | flushed
  /-- `SnkFlush()` answered `IoErr` -/
  | flushIoErr
  deriving DecidableEq, Repr

/-- A host write of one of the four `META_*` registers (rules R33 to R36), the only registers a host can write. -/
inductive MetaWrite where
  | width (v : BitVec 32)
  | height (v : BitVec 32)
  | channels (v : Byte)
  | colorspace (v : Byte)
  deriving DecidableEq, Repr

/-- The registers a host can read (rules R32 to R38). Their addresses are the open parameter REGMAP; log entry 15. -/
inductive HostReg where
  | mode | metaWidth | metaHeight | metaChannels | metaColorspace | phase | errKind | errByte
  deriving DecidableEq, Repr

/-- What the world outside does to the engine between two of its steps. -/
inductive HostEvent where
  /-- the command `START_ENC` (rules R250, R251) -/
  | startEnc
  /-- the command `START_DEC` (rules R250, R256) -/
  | startDec
  /-- a write of a `META_*` register (rules R33 to R36) -/
  | write (w : MetaWrite)
  /-- the hardware reset event (rule R330) -/
  | reset
  /-- the source port comes to answer further reads (rule R53) -/
  | srcAnswers (as : List SrcAnswer)
  /-- the sink port comes to answer further writes and flushes (rules R54, R55) -/
  | snkAnswers (as : List SnkAnswer)
  deriving DecidableEq, Repr

/-- The state. -/
structure State where
  /-- the pixel cache (rule R21) -/
  cache : Slots
  /-- the previous pixel (rule R22) -/
  prev : Pixel
  /-- the run counter (rule R23) -/
  run : BitVec 6
  /-- `PIXTOTAL` (rule R31) -/
  pixTotal : BitVec 64
  /-- `PIXDONE` (rule R31) -/
  pixDone : BitVec 64
  /-- `MODE` (rule R32) -/
  mode : Mode
  /-- `META_WIDTH` (rule R33) -/
  metaWidth : BitVec 32
  /-- `META_HEIGHT` (rule R34) -/
  metaHeight : BitVec 32
  /-- `META_CHANNELS` (rule R35) -/
  metaChannels : Byte
  /-- `META_COLORSPACE` (rule R36) -/
  metaColorspace : Byte
  /-- `PHASE` (rule R37) -/
  phase : Phase
  /-- `ERR_KIND` (rule R38) -/
  errKind : ErrKind
  /-- `ERR_BYTE` (rule R38) -/
  errByte : Byte
  /-- the bytes already read in the step in progress (rule R41 (b) to (d)); log entry 3 -/
  rdBuf : List Byte
  /-- how many of the bytes the step in progress writes the sink has accepted; log entry 3 -/
  wrCnt : Nat
  /-- MODEL'S OWN: the source port's answers to come, oldest first; log entry 1 -/
  src : List SrcAnswer
  /-- MODEL'S OWN: the sink port's answers to come, oldest first; log entry 1 -/
  snk : List SnkAnswer
  /-- MODEL'S OWN: the host events to come, each with the number of engine steps before it; log entry 2 -/
  agenda : List (Nat × HostEvent)
  /-- MODEL'S OWN: the history of answered port operations, oldest first; log entry 4 -/
  hist : List PortEvent
  /-- MODEL'S OWN: how many errors were raised; each draws fresh free values with it; log entry 5 -/
  freeCount : Nat
  deriving DecidableEq, Repr

/-- Right after hardware reset: every register as the table of 10_state.md section 8 gives it (rules R28, R330); nothing
in progress; nothing of the world outside (log entries 1, 2, 4, 5). -/
def State.reset : State where
  cache := Vector.replicate 64 Pixel.clear
  prev := Pixel.black
  run := 0
  pixTotal := 0
  pixDone := 0
  mode := .enc
  metaWidth := 0
  metaHeight := 0
  metaChannels := 0
  metaColorspace := 0
  phase := .idle
  errKind := .none
  errByte := 0
  rdBuf := []
  wrCnt := 0
  src := []
  snk := []
  agenda := []
  hist := []
  freeCount := 0

/-- Where the model stops. Every error of the SPEC is a next state (rule R300); this hardware never stops by itself. -/
inductive Fault where
  /-- Raised by the encode path where `run` is 63: an encode pixel step that would emit that run or raise it further, and the
  encode finish that would emit it. No run of the machine reaches such a state (rules R23, R25, R220); the spec gives no bytes
  for it (rule R236), and six bits do not hold 64. Safe: the model stops, nothing is masked and nothing wraps. Log entry 9. -/
  | runCounterOutOfRange
  deriving DecidableEq, Repr

/-- Where the model gives no meaning. -/
inductive Refusal where
  /-- An instruction without a meaning yet, rejected by name in exec's arm. No arm uses it. Safe. -/
  | notModelled (mnemonic : String)
  /-- Raised by `RUN` given to exec with a count outside 1..62, which no bytes decode to: not well formed (rules R81, R236,
  U11: refuse, never mask). Safe: the decoder never produces one. Log entry 9. -/
  | illFormedOp
  deriving DecidableEq, Repr

/-- The outcome of a step of this machine. -/
abbrev Result := Host.Outcome State Fault Refusal

end Sys2Proof.Machine
end

