-- ==== Sys2Proof/Machine/Flags.lean ====
section
/-! DEFINITION. The hardware has no condition codes and no chunk writes a flag (rule R39). What stands here is its whole
status: the codes of the status registers, the two level outputs, and what a host reads. -/

namespace Sys2Proof.Machine

/-- `MODE` as its bit (rule R32). -/
def Mode.code : Mode → BitVec 1
  | .enc => 0
  | .dec => 1

/-- `PHASE` as its three bits (rule R37). -/
def Phase.code : Phase → BitVec 3
  | .idle => 0
  | .header => 1
  | .body => 2
  | .trailer => 3
  | .flush => 4
  | .done => 5
  | .error => 6

/-- `ERR_KIND` as its three bits (rule R290). -/
def ErrKind.code : ErrKind → BitVec 3
  | .none => 0
  | .invalidHeader => 1
  | .invalidColorspace => 2
  | .invalidDimensions => 3
  | .invalidIndex => 4
  | .unexpectedEof => 5
  | .unknownTag => 6
  | .ioError => 7

/-- The kind an error is recorded as (rule R290). -/
def CoreError.kind : CoreError → ErrKind
  | .invalidHeader => .invalidHeader
  | .invalidColorspace _ => .invalidColorspace
  | .invalidDimensions => .invalidDimensions
  | .invalidIndex _ => .invalidIndex
  | .unexpectedEof => .unexpectedEof
  | .unknownTag _ => .unknownTag
  | .ioError => .ioError

/-- The byte an error records: its own where it carries one, else 0 (rules R290, R300). -/
def CoreError.byte : CoreError → Byte
  | .invalidHeader => 0
  | .invalidColorspace b => b
  | .invalidDimensions => 0
  | .invalidIndex b => b
  | .unexpectedEof => 0
  | .unknownTag b => b
  | .ioError => 0

/-- The busy phases, in which commands and host writes are ignored (rules R33, R250). -/
def Phase.busy : Phase → Bool
  | .idle => false
  | .header => true
  | .body => true
  | .trailer => true
  | .flush => true
  | .done => false
  | .error => false

/-- The level output `done` (rule R39). -/
def State.doneOut (s : State) : Bool := s.phase = .done

/-- The level output `error` (rule R39). -/
def State.errorOut (s : State) : Bool := s.phase = .error

/-- What a host reads from a register, in the low bits of a word (rules R32 to R38). A read changes nothing. -/
def State.hostRead (s : State) : HostReg → BitVec 32
  | .mode => s.mode.code.setWidth 32
  | .metaWidth => s.metaWidth
  | .metaHeight => s.metaHeight
  | .metaChannels => s.metaChannels.setWidth 32
  | .metaColorspace => s.metaColorspace.setWidth 32
  | .phase => s.phase.code.setWidth 32
  | .errKind => s.errKind.code.setWidth 32
  | .errByte => s.errByte.setWidth 32

end Sys2Proof.Machine
end

