-- ==== Sys2Proof/Machine/PixelOps.lean ====
section
/-! DEFINITION. The pure functions of 40_pixel_diff.md: wrapping channel arithmetic, the hash, the difference model and
its inverse. None reads or writes state. -/

namespace Sys2Proof.Machine

/-- `add8` (rule R112): addition modulo 256. -/
def add8 (x y : Byte) : Byte := x + y

/-- `sub8` (rule R112): subtraction modulo 256. -/
def sub8 (x y : Byte) : Byte := x - y

/-- `hash` (rule R114): the sum in the integers, then reduced modulo 64 to a slot number. -/
def pixelHash (p : Pixel) : BitVec 6 :=
  BitVec.ofNat 6 ((p.r.toNat * 3 + p.g.toNat * 5 + p.b.toNat * 7 + p.a.toNat * 11) % 64)

/-- The small-color check on the three raw deltas (rule R119). -/
def colorOf (vr vg vb : Byte) : Option DiffKind :=
  let cr := add8 vr 2
  let cg := add8 vg 2
  let cb := add8 vb 2
  if cr ≤ 3 ∧ cg ≤ 3 ∧ cb ≤ 3 then some (.color (cr.setWidth 2) (cg.setWidth 2) (cb.setWidth 2)) else none

/-- The luma check on the three raw deltas (rule R120). -/
def lumaOf (vr vg vb : Byte) : Option DiffKind :=
  let lg := add8 vg 32
  let lr := add8 (sub8 vr vg) 8
  let lb := add8 (sub8 vb vg) 8
  if lg ≤ 63 ∧ lr ≤ 15 ∧ lb ≤ 15 then some (.luma (lg.setWidth 6) (lr.setWidth 4) (lb.setWidth 4)) else none

/-- `diff(candidate, reference)` (rules R116 to R121): the alpha gate, then the small-color check, then the luma check. -/
def diff (c r : Pixel) : Option DiffKind :=
  if c.a ≠ r.a then none
  else
    let vr := sub8 c.r r.r
    let vg := sub8 c.g r.g
    let vb := sub8 c.b r.b
    match colorOf vr vg vb with
    | some d => some d
    | none => lumaOf vr vg vb

/-- `from_diff` of a `Color` (rule R122); alpha is the reference's. -/
def fromColor (dr dg db : BitVec 2) (r : Pixel) : Pixel :=
  { r := add8 r.r (sub8 (dr.setWidth 8) 2)
    g := add8 r.g (sub8 (dg.setWidth 8) 2)
    b := add8 r.b (sub8 (db.setWidth 8) 2)
    a := r.a }

/-- `from_diff` of a `Luma` (rule R123); alpha is the reference's. -/
def fromLuma (dg : BitVec 6) (drg dbg : BitVec 4) (r : Pixel) : Pixel :=
  let vg := sub8 (dg.setWidth 8) 32
  let vr := add8 vg (sub8 (drg.setWidth 8) 8)
  let vb := add8 vg (sub8 (dbg.setWidth 8) 8)
  { r := add8 r.r vr, g := add8 r.g vg, b := add8 r.b vb, a := r.a }

/-- `from_diff(d, reference)` (rules R122, R123). -/
def fromDiff (d : DiffKind) (r : Pixel) : Pixel :=
  match d with
  | .color dr dg db => fromColor dr dg db r
  | .luma dg drg dbg => fromLuma dg drg dbg r

end Sys2Proof.Machine
end

