-- ==== Sys2Proof/Machine/Operands.lean ====
section
/-! DEFINITION. How operands stand in streams: the bytes of a pixel and the pixel of bytes (rule R59), the big-endian
words of the header (rule R58), the header itself (rule R95). -/

namespace Sys2Proof.Machine

/-- How many bytes one pixel takes on the pixel stream: 4 where `META_CHANNELS` is 4, else 3 (rules R59, R161, R200). -/
def stride (channels : Byte) : Nat := if channels = 4 then 4 else 3

/-- The bytes one pixel is written as: r, g, b and, with 4 channels, a (rules R59, R200). -/
def pixelBytes (channels : Byte) (p : Pixel) : List Byte :=
  if channels = 4 then [p.r, p.g, p.b, p.a] else [p.r, p.g, p.b]

/-- The pixel that input bytes stand for: with 4 channels alpha is the fourth byte, else it is the previous pixel's
(rule R161). -/
def pixelOfBytes (channels : Byte) (prev : Pixel) (bs : List Byte) : Pixel :=
  { r := bs.getD 0 0
    g := bs.getD 1 0
    b := bs.getD 2 0
    a := if channels = 4 then bs.getD 3 0 else prev.a }

/-- The four bytes of a word, most significant first (rule R58). -/
def wordBytes (v : BitVec 32) : List Byte :=
  [v.extractLsb' 24 8, v.extractLsb' 16 8, v.extractLsb' 8 8, v.extractLsb' 0 8]

/-- The word whose bytes, most significant first, stand in `bs` from position `k` on (rule R58). -/
def wordAt (bs : List Byte) (k : Nat) : BitVec 32 :=
  bs.getD k 0 ++ bs.getD (k + 1) 0 ++ bs.getD (k + 2) 0 ++ bs.getD (k + 3) 0

/-- The 14 header bytes (rule R95). -/
def headerBytes (width height : BitVec 32) (channels colorspace : Byte) : List Byte :=
  Config.magic ++ wordBytes width ++ wordBytes height ++ [channels, colorspace]

/-- The pixel count, a product without loss in 64 bits (rules R7, R31). -/
def pixelCount (width height : BitVec 32) : BitVec 64 := width.setWidth 64 * height.setWidth 64

/-- `META_CHANNELS` is 3 or 4 (rule R35). -/
def channelsOk (c : Byte) : Bool := c = 3 || c = 4

/-- `META_COLORSPACE` is 0 or 1 (rule R36). -/
def colorspaceOk (c : Byte) : Bool := c = 0 || c = 1

end Sys2Proof.Machine
end

