-- ==== Sys2Proof/Machine/Ops.lean ====
section
/-! DEFINITION. The named operations over the state: the cache operations of 41_cache_state.md, the initialisation of rule
R28, hardware reset (rule R330), the error entry (rule R300), the three port operations (rules R53 to R55), and the two
loops every step is made of: reading until the step has the bytes it needs, writing the bytes it has to write. -/

namespace Sys2Proof.Machine

/-! ## The pixel cache -/

/-- Indexed lookup `cache[idx]` (rule R142): the slot as it stands, whatever it holds. -/
def lookup (slots : Slots) (idx : BitVec 6) : Pixel := slots[idx.toNat]'idx.isLt

/-- `cache_insert(p)` (rule R140): overwrites slot `hash(p)`, nothing else. -/
def cacheInsert (c : Slots) (p : Pixel) : Slots := c.set (pixelHash p).toNat p (pixelHash p).isLt

/-- `cache_match_or_replace(p)` (rule R141): a hit answers the slot and writes nothing; a miss replaces the slot. -/
def cacheMatchOrReplace (c : Slots) (p : Pixel) : Option (BitVec 6) × Slots :=
  if lookup c (pixelHash p) = p then (some (pixelHash p), c) else (none, cacheInsert c p)

/-! ## Initialisation, reset, error entry -/

/-- The initialisation of the codec state (rule R28). -/
def initCodec (s : State) : State :=
  { s with cache := Vector.replicate 64 Pixel.clear, prev := Pixel.black, run := 0 }

/-- The step in progress is over: nothing read, nothing written of the next one (log entry 3). -/
def endStep (s : State) : State := { s with rdBuf := [], wrCnt := 0 }

/-- The hardware reset event (rule R330): every register at its reset value, a call in progress abandoned; what the world
outside still holds, the history of what it has accepted, and the count of drawn free values stay. -/
def hwReset (s : State) : State :=
  { State.reset with src := s.src, snk := s.snk, agenda := s.agenda, hist := s.hist, freeCount := s.freeCount }

/-- The registers that an error leaves without a defined value (rules R301, R268, R332; U7, U8): free values, fresh for
each error. The `META_*` registers are among them only in a decode call's phase `HEADER`. Log entries 5, 6. -/
def scramble (s : State) : State :=
  { s with
    cache := Config.freeCache s.freeCount
    prev := Config.freePrev s.freeCount
    run := Config.freeRun s.freeCount
    pixDone := Config.freePixDone s.freeCount
    pixTotal := Config.freePixTotal s.freeCount
    metaWidth := if s.mode = .dec ∧ s.phase = .header then Config.freeMetaWidth s.freeCount else s.metaWidth
    metaHeight := if s.mode = .dec ∧ s.phase = .header then Config.freeMetaHeight s.freeCount else s.metaHeight
    metaChannels := if s.mode = .dec ∧ s.phase = .header then Config.freeMetaChannels s.freeCount else s.metaChannels
    metaColorspace := if s.mode = .dec ∧ s.phase = .header then Config.freeMetaColorspace s.freeCount else s.metaColorspace
    freeCount := s.freeCount + 1 }

/-- Error entry, `raise K(info)` (rule R300): the kind and its byte are recorded and the phase becomes `ERROR`. No port
operation, no saved state, no handler. -/
def errorEntry (e : CoreError) (s : State) : State :=
  endStep { scramble s with errKind := e.kind, errByte := e.byte, phase := .error }

/-! ## Ports -/

/-- How a run of port operations ends: all answered, one unanswered (the engine waits, rule R57), or an error raised. -/
inductive Flow where
  | go (s : State)
  | wait (s : State)
  | raise (e : CoreError) (s : State)
  deriving DecidableEq, Repr

/-- One run of port operations after another. -/
def Flow.andThen (f : Flow) (k : State → Flow) : Flow :=
  match f with
  | .go s => k s
  | .wait s => .wait s
  | .raise e s => .raise e s

/-- A step's outcome from its port operations: what follows once all are answered; waiting, with what has been done so
far and every register retained (rule R313); or the error entry. -/
def Flow.settle (f : Flow) (k : State → Result) : Result :=
  match f with
  | .go s => k s
  | .wait s => .next s
  | .raise e s => .next (errorEntry e s)

/-- One `SrcRead()` (rule R53); `eofKind` is the error that `Eof` raises where it is made (rule R10). -/
def srcRead (eofKind : CoreError) (s : State) : Flow :=
  match s.src with
  | [] => .wait s
  | .byte b :: rest => .go { s with src := rest, rdBuf := s.rdBuf ++ [b], hist := s.hist ++ [.readByte b] }
  | .eof :: rest => .raise eofKind { s with src := rest, hist := s.hist ++ [.readEof] }
  | .ioErr :: rest => .raise .ioError { s with src := rest, hist := s.hist ++ [.readIoErr] }

/-- One `SnkWrite(b)`, `put(b)` of rule R10 (rule R54). -/
def snkWrite (b : Byte) (s : State) : Flow :=
  match s.snk with
  | [] => .wait s
  | .ok :: rest => .go { s with snk := rest, wrCnt := s.wrCnt + 1, hist := s.hist ++ [.wrote b] }
  | .ioErr :: rest => .raise .ioError { s with snk := rest, hist := s.hist ++ [.writeIoErr b] }

/-- `SnkFlush()` (rule R55). -/
def snkFlush (s : State) : Flow :=
  match s.snk with
  | [] => .wait s
  | .ok :: rest => .go { s with snk := rest, hist := s.hist ++ [.flushed] }
  | .ioErr :: rest => .raise .ioError { s with snk := rest, hist := s.hist ++ [.flushIoErr] }

/-- `n` reads, one after another. -/
def readN : Nat → CoreError → State → Flow
  | 0, _, s => .go s
  | n + 1, eofKind, s => (srcRead eofKind s).andThen (readN n eofKind)

/-- Reads until the step in progress has `n` bytes (none again that it has read before it had to wait). -/
def fill (n : Nat) (eofKind : CoreError) (s : State) : Flow := readN (n - s.rdBuf.length) eofKind s

/-- Writes the bytes in order. -/
def putAll : List Byte → State → Flow
  | [], s => .go s
  | b :: bs, s => (snkWrite b s).andThen (putAll bs)

/-- Writes those of the step's bytes that the sink has not yet accepted. -/
def drain (out : List Byte) (s : State) : Flow := putAll (out.drop s.wrCnt) s

/-! ## The end of a decode pixel step -/

/-- Commit (rule R199): a pixel that differs from `prev` is inserted into the cache and becomes `prev`. -/
def commit (p : Pixel) (s : State) : State :=
  if p = s.prev then s else { s with cache := cacheInsert s.cache p, prev := p }

/-- What a completed decode pixel step leaves: the commit, the run counter, `PIXDONE` one higher (rules R190, R199, R200). -/
def finishPixel (p : Pixel) (run : BitVec 6) (s : State) : State :=
  let t := commit p s
  endStep { t with run := run, pixDone := t.pixDone + 1 }

/-- A decode pixel step from the resolved pixel on: the output bytes, then all state writes (rules R199, R200, R202). -/
def completePixel (p : Pixel) (run : BitVec 6) (s : State) : Result :=
  (drain (pixelBytes s.metaChannels p) s).settle fun t => .next (finishPixel p run t)

end Sys2Proof.Machine
end

