-- ==== Sys2Proof/Machine/Commands.lean ====
section
/-! DEFINITION. What the host does: the two commands, the writes of the `META_*` registers, hardware reset, and the
answers the ports come to give (45_framing_drivers.md section 1, 10_state.md section 4). -/

namespace Sys2Proof.Machine

/-- What an accepted `START_ENC` or `START_DEC` does (rules R251, R256). -/
def startCall (m : Mode) (s : State) : State :=
  endStep { initCodec s with
    mode := m, errKind := .none, errByte := 0, pixDone := 0, pixTotal := 0, phase := .header }

/-- A command: ignored while busy, else accepted (rule R250). -/
def command (m : Mode) (s : State) : State := if s.phase.busy then s else startCall m s

/-- A write of a `META_*` register, as such (rules R33 to R36). -/
def writeMeta (w : MetaWrite) (s : State) : State :=
  match w with
  | .width v => { s with metaWidth := v }
  | .height v => { s with metaHeight := v }
  | .channels v => { s with metaChannels := v }
  | .colorspace v => { s with metaColorspace := v }

/-- A host write: ignored while busy (rules R33, R336). -/
def hostWrite (w : MetaWrite) (s : State) : State := if s.phase.busy then s else writeMeta w s

/-- One event from outside. -/
def applyEvent (e : HostEvent) (s : State) : State :=
  match e with
  | .startEnc => command .enc s
  | .startDec => command .dec s
  | .write w => hostWrite w s
  | .reset => hwReset s
  | .srcAnswers as => { s with src := s.src ++ as }
  | .snkAnswers as => { s with snk := s.snk ++ as }

end Sys2Proof.Machine
end

