-- ==== Sys2Proof/WellFormed.lean ====
section
/-! DEFINITION. Well-formedness of an Op, `WF(op)` of rule R81. The ranges of every field but one are the widths of the
fields' types (0..63 is a `u6`, 0..3 a `u2`, 0..15 a `u4`, 0..255 a `u8`); the count of a `RUN` is 1..62. -/

namespace Sys2Proof

/-- The count of a `RUN` is in 1..62 (rules R81, R94). -/
def runCountOk (count : BitVec 6) : Bool := 1#6 ≤ count && count ≤ Config.runMax

/-- `WF(op)` of rule R81. -/
def Instr.wellFormed : Instr → Bool
  | .rgb _ _ _ => true
  | .rgba _ _ _ _ => true
  | .index _ => true
  | .color _ _ _ => true
  | .luma _ _ _ => true
  | .run count => runCountOk count

end Sys2Proof
end

