-- ==== Sys2Proof/Decode.lean ====
section
/-! DEFINITION. The Op codec (44_op_codec.md): classification of a leading byte (rule R89), `op_decode` on bytes (rules
R228 to R234), and after it `op_encode` (rules R222 to R227). Decoding is total on any bytes and rejects by name; the
one thing it can reject is a chunk cut short, since every leading byte is legal (rule R93). -/

namespace Sys2Proof

/-- The six kinds of chunk. -/
inductive ChunkKind where
  | rgb | rgba | index | color | luma | run
  deriving DecidableEq, Repr

/-- Classification of a leading byte, literal tags first (rule R89). -/
def kindOf (b0 : Byte) : ChunkKind :=
  if b0 = 0xFE#8 then .rgb
  else if b0 = 0xFF#8 then .rgba
  else if b0.extractLsb' 6 2 = 0b00#2 then .index
  else if b0.extractLsb' 6 2 = 0b01#2 then .color
  else if b0.extractLsb' 6 2 = 0b10#2 then .luma
  else .run

/-- The length of a chunk, decided by its leading byte alone (rule R90). -/
def chunkLen (b0 : Byte) : Nat :=
  if b0 = 0xFE#8 then 4
  else if b0 = 0xFF#8 then 5
  else if b0.extractLsb' 6 2 = 0b10#2 then 2
  else 1

/-- Why bytes are no chunk. -/
inductive DecodeError where
  /-- there is no leading byte at all -/
  | noLeadingByte
  /-- the leading byte names a kind whose extra bytes are not all there (rule R236 (b)) -/
  | truncated (kind : ChunkKind)
  deriving DecidableEq, Repr

/-- What decoding answers: an instruction and the bytes after it, or a rejection by name. -/
inductive Decoded where
  | chunk (i : Instr) (rest : List Byte)
  | rejected (why : DecodeError)
  deriving DecidableEq, Repr

/-- `RGB`: three literal bytes in the order r, g, b (rule R232). -/
def decodeRgb : List Byte → Decoded
  | r :: g :: b :: rest => .chunk (.rgb r g b) rest
  | _ => .rejected (.truncated .rgb)

/-- `RGBA`: four literal bytes in the order r, g, b, a (rule R233). -/
def decodeRgba : List Byte → Decoded
  | r :: g :: b :: a :: rest => .chunk (.rgba r g b a) rest
  | _ => .rejected (.truncated .rgba)

/-- `LUMA`: `dg` from the leading byte, `drg` the high nibble and `dbg` the low nibble of the second (rule R231). -/
def decodeLuma (b0 : Byte) : List Byte → Decoded
  | b1 :: rest => .chunk (.luma (b0.extractLsb' 0 6) (b1.extractLsb' 4 4) (b1.extractLsb' 0 4)) rest
  | _ => .rejected (.truncated .luma)

/-- `op_decode` on the bytes from a chunk's first on (rule R228). -/
def decode : List Byte → Decoded
  | [] => .rejected .noLeadingByte
  | b0 :: rest =>
    match kindOf b0 with
    | .rgb => decodeRgb rest
    | .rgba => decodeRgba rest
    | .index => .chunk (.index (b0.extractLsb' 0 6)) rest
    | .color => .chunk (.color (b0.extractLsb' 4 2) (b0.extractLsb' 2 2) (b0.extractLsb' 0 2)) rest
    | .luma => decodeLuma b0 rest
    | .run => .chunk (.run (b0.extractLsb' 0 6 + 1)) rest

/-- `op_encode` (rules R222 to R227). It is defined for a well-formed Op only: an ill-formed one has no bytes, and no
field is ever masked (rule R236 (a)). -/
def encode : Instr → Option (List Byte)
  | .rgb r g b => some [0xFE, r, g, b]
  | .rgba r g b a => some [0xFF, r, g, b, a]
  | .index idx => some [0b00#2 ++ idx]
  | .color dr dg db => some [0b01#2 ++ dr ++ dg ++ db]
  | .luma dg drg dbg => some [0b10#2 ++ dg, drg ++ dbg]
  | .run count => if runCountOk count then some [0b11#2 ++ (count - 1)] else none

/-- How many bytes a chunk of each kind has (rule R82). -/
def Instr.length : Instr → Nat
  | .rgb _ _ _ => 4
  | .rgba _ _ _ _ => 5
  | .index _ => 1
  | .color _ _ _ => 1
  | .luma _ _ _ => 2
  | .run _ => 1

/-- The five bytes (the longest chunk) of a table word: bit 0 of `w` is the least significant bit of the first byte, and
every bit from `nbits` on is 0. -/
def tableWordBytes (nbits w : Nat) : List Byte :=
  let v := w % 2 ^ nbits
  [BitVec.ofNat 8 v, BitVec.ofNat 8 (v / 2 ^ 8), BitVec.ofNat 8 (v / 2 ^ 16), BitVec.ofNat 8 (v / 2 ^ 24),
    BitVec.ofNat 8 (v / 2 ^ 32)]

/-- What `decode` reads from a table word. -/
def decodeTableWord (nbits w : Nat) : Option Instr :=
  match decode (tableWordBytes nbits w) with
  | .chunk i _ => some i
  | .rejected _ => none

end Sys2Proof
end

