-- ==== Sys2Proof/Machine/Chunks.lean ====
section
/-! DEFINITION. What each chunk does once its bytes are read (43_decode_path.md section 2): it resolves one pixel, and the
shared end of a decode pixel step commits and outputs it. -/

namespace Sys2Proof.Machine

/-- `RGB r, g, b` (rule R196): literal channels, alpha of `prev`. -/
def execRgb (r g b : Byte) (s : State) : Result := completePixel ⟨r, g, b, s.prev.a⟩ s.run s

/-- `RGBA r, g, b, a` (rule R197): all four channels literal, in a 3-channel image too. -/
def execRgba (r g b a : Byte) (s : State) : Result := completePixel ⟨r, g, b, a⟩ s.run s

/-- `INDEX idx` (rule R193): the slot as it stands. -/
def execIndex (idx : BitVec 6) (s : State) : Result := completePixel (lookup s.cache idx) s.run s

/-- `COLOR dr, dg, db` (rule R194): `from_diff` against `prev`. -/
def execColor (dr dg db : BitVec 2) (s : State) : Result := completePixel (fromColor dr dg db s.prev) s.run s

/-- `LUMA dg, drg, dbg` (rule R195): `from_diff` against `prev`. -/
def execLuma (dg : BitVec 6) (drg dbg : BitVec 4) (s : State) : Result :=
  completePixel (fromLuma dg drg dbg s.prev) s.run s

/-- `RUN count` (rule R198): `prev` once now, `count - 1` continuations to come. A count outside 1..62 is no Op (rule R81)
and is refused by name (rule R236, U11). -/
def execRun (count : BitVec 6) (s : State) : Result :=
  if runCountOk count then completePixel s.prev (count - 1) s else .refused .illFormedOp

end Sys2Proof.Machine
end

