-- ==== Sys2Proof/Machine/Decoder.lean ====
section
/-! DEFINITION. The decode pixel step (43_decode_path.md): run continuation, or fetch of one chunk and its execution. -/

namespace Sys2Proof.Machine

/-- Chunk fetch (rules R192, R228): the leading byte, then as many extra bytes as it asks for, never one more. -/
def fetchChunk (s : State) : Flow :=
  (fill 1 .unexpectedEof s).andThen fun t => fill (chunkLen (t.rdBuf.headD 0)) .unexpectedEof t

/-- A step that reads a chunk and executes it (rules R190, R192). A chunk cut short raises `UnexpectedEof` (rule R236 (b)). -/
def chunkStep (s : State) : Result :=
  (fetchChunk s).settle fun t =>
    match decode t.rdBuf with
    | .chunk i _ => exec i t
    | .rejected _ => .next (errorEntry .unexpectedEof t)

/-- Run continuation (rule R191): the counter goes down, `prev` is output, nothing is read. -/
def continueRun (s : State) : Result := completePixel s.prev (s.run - 1) s

/-- The decode pixel step (rule R190). -/
def decPixelStep (s : State) : Result := if s.run ≠ 0 then continueRun s else chunkStep s

end Sys2Proof.Machine
end

