-- ==== Sys2Proof/Machine/Encoder.lean ====
section
/-! DEFINITION. The encode pixel step and the run-length compressor (42_encode_path.md). -/

namespace Sys2Proof.Machine

/-- What an encode pixel step emits and leaves in the codec state, but for `prev` (which becomes the pixel, rule R170). -/
structure EncPlan where
  out : List Byte
  run : BitVec 6
  cache : Slots
  deriving DecidableEq, Repr

/-- The chunk for a pixel that missed the cache (rules R166 to R169): a difference where `diff` gives one, else a literal. -/
def missOp (p prev : Pixel) : Instr :=
  match diff p prev with
  | some (.color dr dg db) => .color dr dg db
  | some (.luma dg drg dbg) => .luma dg drg dbg
  | none => if p.a = prev.a then .rgb p.r p.g p.b else .rgba p.r p.g p.b p.a

/-- The chunk for a pixel that differs from `prev`, and the cache after it (rules R165 to R169, R175). -/
def selectOp (c : Slots) (p prev : Pixel) : Instr × Slots :=
  match cacheMatchOrReplace c p with
  | (some idx, c') => (.index idx, c')
  | (none, c') => (missOp p prev, c')

/-- The bytes of an open run (rules R164, R172): no byte for `run == 0`, `0xC0 + run - 1` for 1..62, and `none`, no bytes at
all, for 63, which is no count of a `Run` (rules R6, R81, R236). DESIGN CHOICE: no legal state holds 62 or 63 here (rules R23,
R25); for 62 the pseudocode is followed as it stands, for 63 the model faults. Log entry 9. -/
def openRunBytes (run : BitVec 6) : Option (List Byte) := if run = 0 then some [] else encode (.run run)

/-- Run extension and saturation (rules R162, R163): the pixel equals `prev`. DESIGN CHOICE: no legal state holds 62 or 63
here (rules R23, R25); 62 is raised to 63 and nothing emitted, as the pseudocode stands, and 63, whose successor six bits do
not hold, gives `none`: the model faults and never wraps. Log entry 9. -/
def planRepeat (c : Slots) (run : BitVec 6) : Option EncPlan :=
  if run = 63 then none
  else if run + 1 = Config.runMax then (encode (.run (run + 1))).map fun out => ⟨out, 0, c⟩
  else some ⟨[], run + 1, c⟩

/-- Run break, then one chunk (rules R164 to R169): the pixel differs from `prev`. -/
def planChange (c : Slots) (run : BitVec 6) (p prev : Pixel) : Option EncPlan :=
  match openRunBytes run, encode (selectOp c p prev).1 with
  | some o1, some o2 => some ⟨o1 ++ o2, 0, (selectOp c p prev).2⟩
  | _, _ => none

/-- The whole choice of rule R160; `none` only where the counter is 63 (rule R236, log entry 9). -/
def encPlan (c : Slots) (run : BitVec 6) (p prev : Pixel) : Option EncPlan :=
  if p = prev then planRepeat c run else planChange c run p prev

/-- The state writes that end an encode pixel step (rules R160, R170, R176). -/
def finishEncPixel (p : Pixel) (plan : EncPlan) (s : State) : State :=
  endStep { s with cache := plan.cache, run := plan.run, prev := p, pixDone := s.pixDone + 1 }

/-- The encode pixel step from the fetched pixel on: the bytes, then all state writes (rules R160, R173). -/
def emitPixel (p : Pixel) (s : State) : Result :=
  match encPlan s.cache s.run p s.prev with
  | none => .fault .runCounterOutOfRange
  | some plan => (drain plan.out s).settle fun t => .next (finishEncPixel p plan t)

/-- The encode pixel step (rules R160, R161). -/
def encPixelStep (s : State) : Result :=
  (fill (stride s.metaChannels) .unexpectedEof s).settle fun t =>
    emitPixel (pixelOfBytes t.metaChannels t.prev t.rdBuf) t

end Sys2Proof.Machine
end

