-- ==== Sys2Proof/Machine/Framing.lean ====
section
/-! DEFINITION. Headers, the end of the body, the trailer and the flush (45_framing_drivers.md). -/

namespace Sys2Proof.Machine

/-- Entry to the body (rules R253, R260): the pixel count, and nothing of the header step left. -/
def enterBody (s : State) : State :=
  endStep { s with pixTotal := pixelCount s.metaWidth s.metaHeight, pixDone := 0, phase := .body }

/-- `EncHeader` (rules R252, R253): the arguments are checked before any byte, channels first. -/
def encHeader (s : State) : Result :=
  if channelsOk s.metaChannels = false then .next (errorEntry .invalidHeader s)
  else if colorspaceOk s.metaColorspace = false then .next (errorEntry (.invalidColorspace s.metaColorspace) s)
  else
    (drain (headerBytes s.metaWidth s.metaHeight s.metaChannels s.metaColorspace) s).settle fun t => .next (enterBody t)

/-- Header bytes 0..3 (rule R257): all four are read, then compared. -/
def decMagic (s : State) : Flow :=
  (fill 4 .invalidHeader s).andThen fun t =>
    if t.rdBuf.take 4 = Config.magic then .go t else .raise .invalidHeader t

/-- Header bytes 4..11 (rule R258): each field is stored once its four bytes are read. -/
def decDimensions (s : State) : Flow :=
  (fill 8 .invalidDimensions s).andThen fun t =>
    (fill 12 .invalidDimensions { t with metaWidth := wordAt t.rdBuf 4 }).andThen fun u =>
      .go { u with metaHeight := wordAt u.rdBuf 8 }

/-- Header byte 12 (rule R259): read, checked, stored. -/
def decChannels (s : State) : Flow :=
  (fill 13 .unexpectedEof s).andThen fun t =>
    if channelsOk (t.rdBuf.getD 12 0) then .go { t with metaChannels := t.rdBuf.getD 12 0 } else .raise .invalidHeader t

/-- Header byte 13 (rule R260): read, checked, stored. -/
def decColorspace (s : State) : Flow :=
  (fill 14 .unexpectedEof s).andThen fun t =>
    if colorspaceOk (t.rdBuf.getD 13 0) then .go { t with metaColorspace := t.rdBuf.getD 13 0 }
    else .raise (.invalidColorspace (t.rdBuf.getD 13 0)) t

/-- `DecHeader` (rules R257 to R260): field by field in stream order. -/
def decHeader (s : State) : Result :=
  ((((decMagic s).andThen decDimensions).andThen decChannels).andThen decColorspace).settle fun t => .next (enterBody t)

/-- The end of an encode body (rule R254). -/
def leaveEncBody (s : State) : Result := .next { s with phase := .trailer }

/-- The end of a decode body (rule R261). The trailer is not read (rule R262) unless the open parameter of decision D10
says so. -/
def leaveDecBody (s : State) : Result :=
  (if Config.decReadsTrailer then fill 8 .unexpectedEof s else .go s).settle fun t =>
    .next (endStep { t with phase := .flush })

/-- The encode finish up to the flush (rules R172, R255): the open run, then the trailer. A run of 63 faults (log entry 9). -/
def encFinish (s : State) : Result :=
  match openRunBytes s.run with
  | none => .fault .runCounterOutOfRange
  | some o => (drain (o ++ Config.trailer) s).settle fun t => .next (endStep { t with run := 0, phase := .flush })

/-- The flush, the last port operation of a call (rules R55, R255, R262). -/
def flushStep (s : State) : Result := (snkFlush s).settle fun t => .next (endStep { t with phase := .done })

end Sys2Proof.Machine
end

