-- ==== Sys2Proof/Machine/Engine.lean ====
section
/-! DEFINITION. One step of the engine by phase (rule R266), and whose turn it is. -/

namespace Sys2Proof.Machine

/-- A step of phase `BODY` (rules R254, R261): a pixel step while pixels remain, else the end of the body. -/
def bodyStep (s : State) : Result :=
  if s.pixDone < s.pixTotal then
    match s.mode with
    | .enc => encPixelStep s
    | .dec => decPixelStep s
  else
    match s.mode with
    | .enc => leaveEncBody s
    | .dec => leaveDecBody s

/-- A step of phase `HEADER`. -/
def headerStep (s : State) : Result :=
  match s.mode with
  | .enc => encHeader s
  | .dec => decHeader s

/-- One step of the engine (rule R266). In `IDLE`, `DONE` and `ERROR` it waits for a command (rule R313). -/
def engineStep (s : State) : Result :=
  match s.phase with
  | .idle => .next s
  | .header => headerStep s
  | .body => bodyStep s
  | .trailer => encFinish s
  | .flush => flushStep s
  | .done => .next s
  | .error => .next s

/-- Whose turn it is: a host event that is due comes first; otherwise the engine steps, and the next event is one engine
step nearer. Log entry 2. -/
def turn (s : State) : Result :=
  match s.agenda with
  | [] => engineStep s
  | (0, e) :: rest => .next (applyEvent e { s with agenda := rest })
  | (n + 1, e) :: rest => engineStep { s with agenda := (n, e) :: rest }

/-- The engine in the body of a decode call of a 1 x 1 image with 4 channels, no run open, no host event to come, a sink
that takes the pixel, and `bytes` before everything else the source will answer. Log entry 11. -/
def placeChunk (bytes : List Byte) (s : State) : State :=
  { s with
    mode := .dec, phase := .body, errKind := .none, errByte := 0
    metaWidth := 1, metaHeight := 1, metaChannels := 4, metaColorspace := 0
    pixTotal := 1, pixDone := 0, run := 0, rdBuf := [], wrCnt := 0, agenda := []
    src := bytes.map .byte ++ s.src
    snk := List.replicate 4 .ok ++ s.snk }

end Sys2Proof.Machine
end

