-- ==== Sys2Proof/Machine/Step.lean ====
section
/-! DEFINITION. The step of the machine, and where its next instruction stands. -/

namespace Sys2Proof.Machine

/-- One step: a host event that is due, or a step of the engine. -/
def step (s : State) : Host.Outcome State Fault Refusal := turn s

/-- `s` with the table word placed as the next chunk the engine fetches, so that the very next step runs it. -/
def State.withFetchWord (s : State) (nbits w : Nat) : State := placeChunk (tableWordBytes nbits w) s

end Sys2Proof.Machine
end

