-- ==== Sys2Proof/Safety.lean ====
section
/-! DEFINITION. What counts as a legal state (the invariant the spec's rules keep between steps) and the terms in which
the statements speak: answers of a port, streams of a history, the pixel a chunk stands for, a completed pixel step. -/

namespace Sys2Proof.Machine

/-- Every slot holds its initial value or a pixel whose hash is the slot's number (rule R24). -/
def SlotsOk (c : Slots) : Prop := ∀ i : BitVec 6, lookup c i = Pixel.clear ∨ pixelHash (lookup c i) = i

/-- The phases of a call after its header. -/
def Phase.afterHeader : Phase → Bool
  | .idle => false
  | .header => false
  | .body => true
  | .trailer => true
  | .flush => true
  | .done => false
  | .error => false

/-- What holds between any two steps. After an error the codec state and the counters are free (rule R301), so nothing is
said of them in phase `ERROR`. -/
structure Inv (s : State) : Prop where
  /-- `ERR_KIND != 0` if and only if `PHASE == ERROR` (rule R38) -/
  errKind_iff : s.errKind ≠ .none ↔ s.phase = .error
  /-- `InvalidIndex` and `UnknownTag` are never raised (rules R294, R296) -/
  raised : s.errKind ≠ .invalidIndex ∧ s.errKind ≠ .unknownTag
  /-- `ERR_BYTE` is 0 for every kind that carries no byte (rule R38) -/
  errByte_zero : s.errKind ≠ .invalidColorspace → s.errByte = 0
  /-- `run` is in 0..61 between steps (rules R23, R25) -/
  run_le : s.phase ≠ .error → s.run.toNat ≤ 61
  /-- the cache invariant (rule R24) -/
  slots : s.phase ≠ .error → SlotsOk s.cache
  /-- `PIXDONE <= PIXTOTAL` (rule R31) -/
  count_le : s.phase ≠ .error → s.pixDone ≤ s.pixTotal
  /-- phase `HEADER` starts from the initialised codec state and counters (rules R28, R251, R256) -/
  fresh : s.phase = .header → s.cache = Vector.replicate 64 Pixel.clear ∧ s.prev = Pixel.black ∧ s.run = 0 ∧ s.pixDone = 0 ∧ s.pixTotal = 0
  /-- phase `TRAILER` is of encode calls only (rule R37) -/
  trailer_enc : s.phase = .trailer → s.mode = .enc
  /-- after the header the metadata is legal and `PIXTOTAL` its pixel count (rules R31, R35, R36) -/
  meta_ok : s.phase.afterHeader = true → channelsOk s.metaChannels = true ∧ colorspaceOk s.metaColorspace = true ∧ s.pixTotal = pixelCount s.metaWidth s.metaHeight
  /-- the body is left only when every pixel is done (rules R254, R261) -/
  all_done : s.phase = .trailer ∨ s.phase = .flush ∨ s.phase = .done → s.pixDone = s.pixTotal
  /-- in a 3-channel encode call `prev.a` is 255 throughout (rule R161) -/
  alpha_full : s.mode = .enc → s.phase.afterHeader = true → s.metaChannels = 3 → s.prev.a = 255
  /-- outside a call no step is in progress -/
  idle_clean : s.phase.busy = false → s.rdBuf = [] ∧ s.wrCnt = 0

/-- A host event is due before the engine's next step. -/
def hostDue (s : State) : Bool :=
  match s.agenda with
  | [] => false
  | (0, _) :: _ => true
  | (_ + 1, _) :: _ => false

/-- The next host event is one engine step nearer. -/
def tick (s : State) : State :=
  match s.agenda with
  | [] => s
  | (0, _) :: _ => s
  | (n + 1, e) :: rest => { s with agenda := (n, e) :: rest }

/-- `n` answers `Ok` of the sink. -/
def oks (n : Nat) : List SnkAnswer := List.replicate n .ok

/-- The answers of a source that delivers these bytes. -/
def delivers (bs : List Byte) : List SrcAnswer := bs.map .byte

/-- The bytes the sink has accepted in a history, in order. -/
def sinkBytes (h : List PortEvent) : List Byte :=
  h.filterMap fun e => match e with
    | .wrote b => some b
    | _ => none

/-- The answers the source has given in a history, in order. -/
def srcAnswered (h : List PortEvent) : List SrcAnswer :=
  h.filterMap fun e => match e with
    | .readByte b => some (.byte b)
    | .readEof => some .eof
    | .readIoErr => some .ioErr
    | _ => none

/-- The answers the sink has given in a history, in order. -/
def snkAnswered (h : List PortEvent) : List SnkAnswer :=
  h.filterMap fun e => match e with
    | .wrote _ => some .ok
    | .writeIoErr _ => some .ioErr
    | .flushed => some .ok
    | .flushIoErr => some .ioErr
    | _ => none

/-- A state after the reads that delivered `bs`, with `rest` the answers still to come. -/
def afterReads (bs : List Byte) (rest : List SrcAnswer) (s : State) : State :=
  { s with src := rest, rdBuf := s.rdBuf ++ bs, hist := s.hist ++ bs.map .readByte }

/-- A state after the sink accepted `bs`, with `rest` the answers still to come. -/
def afterWrites (bs : List Byte) (rest : List SnkAnswer) (s : State) : State :=
  { s with snk := rest, wrCnt := s.wrCnt + bs.length, hist := s.hist ++ bs.map .wrote }

/-- The engine is at a decode pixel step (rule R190). -/
def AtDecodeStep (s : State) : Prop := s.phase = .body ∧ s.mode = .dec ∧ s.pixDone < s.pixTotal

/-- The engine is at an encode pixel step (rule R160). -/
def AtEncodeStep (s : State) : Prop := s.phase = .body ∧ s.mode = .enc ∧ s.pixDone < s.pixTotal

/-- The pixel a chunk resolves to (rules R193 to R198), its arithmetic written out. -/
def resolved (s : State) : Instr → Pixel
  | .rgb r g b => ⟨r, g, b, s.prev.a⟩
  | .rgba r g b a => ⟨r, g, b, a⟩
  | .index idx => lookup s.cache idx
  | .color dr dg db =>
    ⟨s.prev.r + (dr.setWidth 8 - 2), s.prev.g + (dg.setWidth 8 - 2), s.prev.b + (db.setWidth 8 - 2), s.prev.a⟩
  | .luma dg drg dbg =>
    ⟨s.prev.r + (dg.setWidth 8 - 32 + (drg.setWidth 8 - 8)), s.prev.g + (dg.setWidth 8 - 32),
      s.prev.b + (dg.setWidth 8 - 32 + (dbg.setWidth 8 - 8)), s.prev.a⟩
  | .run _ => s.prev

/-- A decode pixel step that resolved to `p` has completed: the bytes `out` are accepted, `rest` is what the sink will
still answer. The four-channel comparison with `prev` decides the cache (rule R199); nothing else changes. -/
def afterPixel (p : Pixel) (run : BitVec 6) (out : List Byte) (rest : List SnkAnswer) (s : State) : State :=
  { s with
    cache := if p = s.prev then s.cache else s.cache.set (pixelHash p).toNat p (pixelHash p).isLt
    prev := p
    run := run
    pixDone := s.pixDone + 1
    rdBuf := []
    wrCnt := 0
    snk := rest
    hist := s.hist ++ out.map .wrote }

/-- An encode pixel step for the pixel `p` has completed: the bytes `out` are accepted. -/
def afterEncPixel (p : Pixel) (cache : Slots) (run : BitVec 6) (out : List Byte) (rest : List SnkAnswer) (s : State) : State :=
  { s with
    cache := cache
    prev := p
    run := run
    pixDone := s.pixDone + 1
    rdBuf := []
    wrCnt := 0
    snk := rest
    hist := s.hist ++ out.map .wrote }

/-- What is defined after an error (rules R300, R301): the error registers, the phase, the mode; the `META_*` registers,
unless it was a decode error in phase `HEADER` (rule R268); the streams and the world outside. -/
structure ErrorReported (k : ErrKind) (b : Byte) (src : List SrcAnswer) (snk : List SnkAnswer) (events : List PortEvent)
    (s t : State) : Prop where
  phase : t.phase = .error
  kind : t.errKind = k
  byte : t.errByte = b
  mode : t.mode = s.mode
  meta_kept : ¬(s.mode = .dec ∧ s.phase = .header) →
    t.metaWidth = s.metaWidth ∧ t.metaHeight = s.metaHeight ∧ t.metaChannels = s.metaChannels ∧ t.metaColorspace = s.metaColorspace
  src : t.src = src
  snk : t.snk = snk
  hist : t.hist = s.hist ++ events
  agenda : t.agenda = s.agenda

/-- The phases the engine can be in after one step of its own (rule R266). -/
def engineMoves : Mode → Phase → List Phase
  | _, .idle => [.idle]
  | _, .header => [.header, .body, .error]
  | .enc, .body => [.body, .trailer, .error]
  | .dec, .body => [.body, .flush, .error]
  | _, .trailer => [.trailer, .flush, .error]
  | _, .flush => [.flush, .done, .error]
  | _, .done => [.done]
  | _, .error => [.error]

/-- `n` steps of the machine lead from `s` to `t`. -/
def Leads (n : Nat) (s t : State) : Prop := Host.Core.run Sys2Proof.core n s = .next t

end Sys2Proof.Machine
end

