-- ==== Sys2Proof/Certificates/Slice0/Obligations.lean ====
section
/-! DEFINITION. The statements for the provers. Each docstring names the rules of spec/ the statement formalises or rests
on. Where a statement gives a next state as a record, that record is also the frame: nothing it does not name changes. -/

open Sys2Proof Sys2Proof.Machine

/-! ## The chunk codec -/

/-- Decode and encode agree: a well-formed Op's bytes decode to it and to nothing more, and any bytes that decode are that
Op's bytes. The spec marks these laws (R235) as derived from R222 to R234. -/
def Obligations.DecodeAndEncodeAgree : Prop :=
  (∀ (i : Instr) (bytes rest : List Byte), encode i = some bytes → decode (bytes ++ rest) = .chunk i rest) ∧
  (∀ (i : Instr) (bs rest : List Byte), decode bs = .chunk i rest → ∃ bytes, encode i = some bytes ∧ bs = bytes ++ rest)

/-- R89: the literal tags first, then the two most significant bits; as ranges of the leading byte. -/
def Obligations.LeadingByteKinds : Prop :=
  ∀ b0 : Byte,
    (kindOf b0 = .rgb ↔ b0.toNat = 0xFE) ∧ (kindOf b0 = .rgba ↔ b0.toNat = 0xFF) ∧
    (kindOf b0 = .index ↔ b0.toNat ≤ 0x3F) ∧ (kindOf b0 = .color ↔ 0x40 ≤ b0.toNat ∧ b0.toNat ≤ 0x7F) ∧
    (kindOf b0 = .luma ↔ 0x80 ≤ b0.toNat ∧ b0.toNat ≤ 0xBF) ∧ (kindOf b0 = .run ↔ 0xC0 ≤ b0.toNat ∧ b0.toNat ≤ 0xFD)

/-- R90, R93: the leading byte alone decides the length; bytes shorter than it are cut short, all others are a well-formed
chunk of exactly that length. -/
def Obligations.ChunkLengthFromLeadingByte : Prop :=
  ∀ (b0 : Byte) (more : List Byte),
    chunkLen b0 = (if b0.toNat = 0xFE then 4 else if b0.toNat = 0xFF then 5 else if b0.toNat / 64 = 2 then 2 else 1) ∧
    (more.length + 1 < chunkLen b0 → ∃ kind, decode (b0 :: more) = .rejected (.truncated kind)) ∧
    (chunkLen b0 ≤ more.length + 1 → ∃ i rest, decode (b0 :: more) = .chunk i rest ∧ i.wellFormed = true ∧
      i.length = chunkLen b0 ∧ more.length + 1 = chunkLen b0 + rest.length)

/-- R229, R230, R234: the fields of the one-byte chunks, as numbers. -/
def Obligations.OneByteChunksDecode : Prop :=
  ∀ (b0 : Byte) (rest : List Byte),
    (b0.toNat ≤ 0x3F → ∃ idx, decode (b0 :: rest) = .chunk (.index idx) rest ∧ idx.toNat = b0.toNat) ∧
    (0x40 ≤ b0.toNat ∧ b0.toNat ≤ 0x7F → ∃ dr dg db, decode (b0 :: rest) = .chunk (.color dr dg db) rest ∧
      b0.toNat = 0x40 + 16 * dr.toNat + 4 * dg.toNat + db.toNat) ∧
    (0xC0 ≤ b0.toNat ∧ b0.toNat ≤ 0xFD → ∃ count, decode (b0 :: rest) = .chunk (.run count) rest ∧
      count.toNat = b0.toNat - 0xC0 + 1)

/-- R231 to R233: the fields of the chunks with extra bytes, and their rejection by name where one lacks. -/
def Obligations.MultiByteChunksDecode : Prop :=
  (∀ (b0 b1 : Byte) (rest : List Byte), 0x80 ≤ b0.toNat → b0.toNat ≤ 0xBF →
    (∃ dg drg dbg, decode (b0 :: b1 :: rest) = .chunk (.luma dg drg dbg) rest ∧
      b0.toNat = 0x80 + dg.toNat ∧ b1.toNat = 16 * drg.toNat + dbg.toNat) ∧
    decode [b0] = .rejected (.truncated .luma)) ∧
  (∀ (r g b : Byte) (rest : List Byte), decode (0xFE#8 :: r :: g :: b :: rest) = .chunk (.rgb r g b) rest ∧
    decode [0xFE#8, r, g] = .rejected (.truncated .rgb)) ∧
  (∀ (r g b a : Byte) (rest : List Byte), decode (0xFF#8 :: r :: g :: b :: a :: rest) = .chunk (.rgba r g b a) rest ∧
    decode [0xFF#8, r, g, b] = .rejected (.truncated .rgba))

/-- R222 to R227: the bytes of every well-formed Op, as numbers; a count past 62 has none. -/
def Obligations.OpEncodeBytes : Prop :=
  (∀ idx : BitVec 6, ∃ b0 : Byte, encode (.index idx) = some [b0] ∧ b0.toNat = idx.toNat) ∧
  (∀ dr dg db : BitVec 2, ∃ b0 : Byte, encode (.color dr dg db) = some [b0] ∧
    b0.toNat = 0x40 + 16 * dr.toNat + 4 * dg.toNat + db.toNat) ∧
  (∀ (dg : BitVec 6) (drg dbg : BitVec 4), ∃ b0 b1 : Byte, encode (.luma dg drg dbg) = some [b0, b1] ∧
    b0.toNat = 0x80 + dg.toNat ∧ b1.toNat = 16 * drg.toNat + dbg.toNat) ∧
  (∀ r g b : Byte, encode (.rgb r g b) = some [0xFE#8, r, g, b]) ∧
  (∀ r g b a : Byte, encode (.rgba r g b a) = some [0xFF#8, r, g, b, a]) ∧
  (∀ count : BitVec 6, 1 ≤ count.toNat → count.toNat ≤ 62 → ∃ b0 : Byte, encode (.run count) = some [b0] ∧
    b0.toNat = 0xC0 + count.toNat - 1) ∧
  encode (.run 63) = none

/-- R81, R236 (a): only a `RUN` of count 0 or 63 can be written down ill-formed, and it has no bytes: nothing is masked. -/
def Obligations.IllFormedOpsHaveNoBytes : Prop :=
  ∀ i : Instr, (encode i = none ↔ i.wellFormed = false) ∧ (i.wellFormed = false ↔ i = .run 0 ∨ i = .run 63)

/-- Words written out from the formats R83 to R88 decode to the instructions they stand for (95_test_vectors.md 2.6). -/
def Obligations.SampleWordsDecode : Prop :=
  decode [0b00110110#8] = .chunk (.index 54) [] ∧ decode [0b01110100#8] = .chunk (.color 3 1 0) [] ∧
  decode [0b10100101#8, 0b11010001#8] = .chunk (.luma 37 13 1) [] ∧
  decode [0b11111110#8, 200#8, 100#8, 100#8] = .chunk (.rgb 200 100 100) [] ∧
  decode [0b11111111#8, 1#8, 2#8, 3#8, 4#8] = .chunk (.rgba 1 2 3 4) [] ∧
  decode [0b11111101#8] = .chunk (.run 62) [] ∧ decode [0b11000000#8] = .chunk (.run 1) []

/-! ## Pixel arithmetic -/

/-- R112 with its laws (the spec marks the laws as derived): addition and subtraction modulo 256. -/
def Obligations.ChannelArithmeticWraps : Prop :=
  ∀ x y : Byte, (add8 x y).toNat = (x.toNat + y.toNat) % 256 ∧ (sub8 x y).toNat = (x.toNat + 256 - y.toNat) % 256 ∧
    add8 (sub8 x y) y = x ∧ sub8 (add8 x y) y = x ∧ sub8 x y = add8 x (sub8 0 y)

/-- R114: the hash is the weighted sum modulo 64, and (derived in the spec) only bits 5:0 of each channel matter. -/
def Obligations.HashIsWeightedSum : Prop :=
  ∀ p : Pixel,
    (pixelHash p).toNat = (p.r.toNat * 3 + p.g.toNat * 5 + p.b.toNat * 7 + p.a.toNat * 11) % 64 ∧
    (pixelHash p).toNat = (p.r.toNat % 64 * 3 + p.g.toNat % 64 * 5 + p.b.toNat % 64 * 7 + p.a.toNat % 64 * 11) % 64

/-- R117: the alpha gate; and a pixel against itself is `Color(2,2,2)`. -/
def Obligations.AlphaChangeHasNoDifference : Prop :=
  (∀ c r : Pixel, c.a ≠ r.a → diff c r = none) ∧ (∀ c : Pixel, diff c c = some (.color 2 2 2))

/-- R119: `diff` answers `Color` exactly where alpha is equal and all three raw deltas, read as signed, are in -2..1, and
the fields are those deltas plus 2. -/
def Obligations.ColorDifferenceExactly : Prop :=
  ∀ (c r : Pixel) (dr dg db : BitVec 2), diff c r = some (.color dr dg db) ↔
    c.a = r.a ∧ (c.r - r.r).toInt + 2 = dr.toNat ∧ (c.g - r.g).toInt + 2 = dg.toNat ∧ (c.b - r.b).toInt + 2 = db.toNat

/-- R120: `diff` answers `Luma` exactly where alpha is equal, the small-color check fails, the raw green delta is in -32..31
and the red and blue deltas less the green one (modulo 256, read as signed) are in -8..7; the fields are those plus 32 and 8. -/
def Obligations.LumaDifferenceExactly : Prop :=
  ∀ (c r : Pixel) (dg : BitVec 6) (drg dbg : BitVec 4), diff c r = some (.luma dg drg dbg) ↔
    c.a = r.a ∧
    ¬((-2 ≤ (c.r - r.r).toInt ∧ (c.r - r.r).toInt ≤ 1) ∧ (-2 ≤ (c.g - r.g).toInt ∧ (c.g - r.g).toInt ≤ 1) ∧
      (-2 ≤ (c.b - r.b).toInt ∧ (c.b - r.b).toInt ≤ 1)) ∧
    (c.g - r.g).toInt + 32 = dg.toNat ∧
    ((c.r - r.r) - (c.g - r.g)).toInt + 8 = drg.toNat ∧ ((c.b - r.b) - (c.g - r.g)).toInt + 8 = dbg.toNat

/-- R124 (derived in the spec): `from_diff` inverts `diff`, and `diff` gives back a `Color`, or for a `Luma` itself or a
`Color` for the same pixel. -/
def Obligations.DifferenceInverts : Prop :=
  (∀ (c r : Pixel) (d : DiffKind), diff c r = some d → fromDiff d r = c) ∧
  (∀ (d : DiffKind) (r : Pixel), (fromDiff d r).a = r.a ∧
    ∃ d', diff (fromDiff d r) r = some d' ∧ fromDiff d' r = fromDiff d r ∧
      (d' = d ∨ ∃ dr dg db, d' = .color dr dg db) ∧ ((∃ dr dg db, d = .color dr dg db) → d' = d))

/-! ## The cache -/

/-- R140: `cache_insert` writes slot `hash(p)` and no other. -/
def Obligations.CacheInsertWritesOneSlot : Prop :=
  ∀ (slots : Slots) (p : Pixel), lookup (cacheInsert slots p) (pixelHash p) = p ∧
    (∀ i, i ≠ pixelHash p → lookup (cacheInsert slots p) i = lookup slots i) ∧
    (lookup slots (pixelHash p) = p → cacheInsert slots p = slots)

/-- R141: a hit answers the slot and writes nothing; a miss answers nothing and replaces that slot only. -/
def Obligations.CacheMatchOrReplaceHitsOrReplaces : Prop :=
  ∀ (slots : Slots) (p : Pixel),
    (lookup slots (pixelHash p) = p → cacheMatchOrReplace slots p = (some (pixelHash p), slots)) ∧
    (lookup slots (pixelHash p) ≠ p → (cacheMatchOrReplace slots p).1 = none ∧
      ∀ i, i ≠ pixelHash p → lookup (cacheMatchOrReplace slots p).2 i = lookup slots i) ∧
    lookup (cacheMatchOrReplace slots p).2 (pixelHash p) = p

/-! ## What each chunk does

The hypothesis on `s.snk` says that the sink accepts the output bytes the step has still to write (all of them where
`s.wrCnt` is 0). The whole next state is given: `afterPixel` inserts a pixel that differs from `prev` into its slot, makes
it `prev`, sets `run`, counts the pixel, and appends the written bytes to the history; everything else stays. -/

/-- R196 with R199, R200: `RGB` completes with the literal colour and `prev`'s alpha. -/
def Obligations.RgbTakesLiteralColour : Prop :=
  ∀ (r g b : Byte) (s : State) (rest : List SnkAnswer),
    s.snk = oks ((pixelBytes s.metaChannels ⟨r, g, b, s.prev.a⟩).drop s.wrCnt).length ++ rest →
    exec (.rgb r g b) s =
      .next (afterPixel ⟨r, g, b, s.prev.a⟩ s.run ((pixelBytes s.metaChannels ⟨r, g, b, s.prev.a⟩).drop s.wrCnt) rest s)

/-- R197 with R199, R200: `RGBA` completes with the literal pixel, whatever the channel count. -/
def Obligations.RgbaTakesLiteralPixel : Prop :=
  ∀ (r g b a : Byte) (s : State) (rest : List SnkAnswer),
    s.snk = oks ((pixelBytes s.metaChannels ⟨r, g, b, a⟩).drop s.wrCnt).length ++ rest →
    exec (.rgba r g b a) s =
      .next (afterPixel ⟨r, g, b, a⟩ s.run ((pixelBytes s.metaChannels ⟨r, g, b, a⟩).drop s.wrCnt) rest s)

/-- R193 with R199, R200: `INDEX` completes with the slot as it stands, even one never written. -/
def Obligations.IndexTakesSlot : Prop :=
  ∀ (idx : BitVec 6) (s : State) (rest : List SnkAnswer),
    s.snk = oks ((pixelBytes s.metaChannels (lookup s.cache idx)).drop s.wrCnt).length ++ rest →
    exec (.index idx) s =
      .next (afterPixel (lookup s.cache idx) s.run ((pixelBytes s.metaChannels (lookup s.cache idx)).drop s.wrCnt) rest s)

/-- R194 with R122, R199, R200: `COLOR` completes with `prev` plus the unbiased deltas, alpha kept. -/
def Obligations.ColorAddsDeltas : Prop :=
  ∀ (dr dg db : BitVec 2) (p : Pixel) (s : State) (rest : List SnkAnswer),
    p.r.toNat = (s.prev.r.toNat + dr.toNat + 254) % 256 → p.g.toNat = (s.prev.g.toNat + dg.toNat + 254) % 256 →
    p.b.toNat = (s.prev.b.toNat + db.toNat + 254) % 256 → p.a = s.prev.a →
    s.snk = oks ((pixelBytes s.metaChannels p).drop s.wrCnt).length ++ rest →
    exec (.color dr dg db) s = .next (afterPixel p s.run ((pixelBytes s.metaChannels p).drop s.wrCnt) rest s)

/-- R195 with R123, R199, R200: `LUMA` completes with `prev` plus the green delta, and on red and blue the further
difference, alpha kept. -/
def Obligations.LumaAddsDeltas : Prop :=
  ∀ (dg : BitVec 6) (drg dbg : BitVec 4) (p : Pixel) (s : State) (rest : List SnkAnswer),
    p.g.toNat = (s.prev.g.toNat + dg.toNat + 224) % 256 →
    p.r.toNat = (s.prev.r.toNat + dg.toNat + drg.toNat + 216) % 256 →
    p.b.toNat = (s.prev.b.toNat + dg.toNat + dbg.toNat + 216) % 256 → p.a = s.prev.a →
    s.snk = oks ((pixelBytes s.metaChannels p).drop s.wrCnt).length ++ rest →
    exec (.luma dg drg dbg) s = .next (afterPixel p s.run ((pixelBytes s.metaChannels p).drop s.wrCnt) rest s)

/-- R198 with R200: `RUN` completes with `prev` once more and `count - 1` continuations to come; cache and `prev` stay. A
count outside 1..62 is no Op (R81) and is refused by name (R236, log entry 9). -/
def Obligations.RunRepeatsPrevious : Prop :=
  (∀ (count : BitVec 6) (s : State) (rest : List SnkAnswer), 1 ≤ count.toNat → count.toNat ≤ 62 →
    s.snk = oks ((pixelBytes s.metaChannels s.prev).drop s.wrCnt).length ++ rest →
    ∃ t, exec (.run count) s = .next t ∧ t.run.toNat = count.toNat - 1 ∧
      t = { s with run := count - 1, pixDone := s.pixDone + 1, rdBuf := [], wrCnt := 0, snk := rest,
                   hist := s.hist ++ ((pixelBytes s.metaChannels s.prev).drop s.wrCnt).map .wrote }) ∧
  (∀ s : State, exec (.run 0) s = .refused .illFormedOp ∧ exec (.run 63) s = .refused .illFormedOp)

/-- R57, R200, R313: where the sink leaves the next byte unanswered, every chunk waits: the bytes accepted so far stay, the
accepted count goes up, every register is retained. Covers RGB, RGBA, INDEX, COLOR, LUMA, RUN. -/
def Obligations.ChunkWaitsForSink : Prop :=
  ∀ (i : Instr) (s : State) (k : Nat), i.wellFormed = true →
    k < ((pixelBytes s.metaChannels (resolved s i)).drop s.wrCnt).length → s.snk = oks k →
    exec i s = .next { s with
      snk := [], wrCnt := s.wrCnt + k,
      hist := s.hist ++ (((pixelBytes s.metaChannels (resolved s i)).drop s.wrCnt).take k).map .wrote }

/-- R200, R297, R300 to R302: where the sink answers `IoErr`, every chunk ends the call with `IoError`; the bytes accepted
before it stay. Covers RGB, RGBA, INDEX, COLOR, LUMA, RUN. -/
def Obligations.ChunkReportsSinkError : Prop :=
  ∀ (i : Instr) (s : State) (k : Nat) (b : Byte) (rest : List SnkAnswer), i.wellFormed = true →
    ((pixelBytes s.metaChannels (resolved s i)).drop s.wrCnt)[k]? = some b → s.snk = oks k ++ .ioErr :: rest →
    ∃ t, exec i s = .next t ∧
      ErrorReported .ioError 0 s.src rest
        ((((pixelBytes s.metaChannels (resolved s i)).drop s.wrCnt).take k).map .wrote ++ [.writeIoErr b]) s t

/-! ## The decode pixel step -/

/-- Whose turn it is (log entry 2): a due host event, else the engine, with the next event one step nearer; and in the
phases IDLE, DONE and ERROR the engine changes nothing (R313). -/
def Obligations.StepTakesTurns : Prop :=
  (∀ (s : State) (e : HostEvent) (rest : List (Nat × HostEvent)), s.agenda = (0, e) :: rest →
    step s = .next (applyEvent e { s with agenda := rest })) ∧
  (∀ s : State, hostDue s = false → step s = engineStep (tick s)) ∧
  (∀ s : State, s.phase.busy = false → engineStep s = .next s)

/-- A step runs the decoded chunk (R190, R192, R228): in the body of a decode call, with pixels and no run left, where the
bytes read so far and those the source delivers next are the bytes of `i`, the step reads exactly these and is `exec i`. -/
def Obligations.StepRunsDecodedChunk : Prop :=
  ∀ (s : State) (i : Instr) (new : List Byte) (rest : List SrcAnswer),
    AtDecodeStep s → s.run = 0 → hostDue s = false → s.src = delivers new ++ rest → decode (s.rdBuf ++ new) = .chunk i [] →
    step s = exec i { tick s with src := rest, rdBuf := s.rdBuf ++ new, hist := s.hist ++ new.map .readByte }

/-- R57, R313: where the source leaves a byte of the chunk unanswered, the step waits with the bytes it has; every register is
retained. -/
def Obligations.ChunkFetchWaits : Prop :=
  ∀ (s : State) (new : List Byte) (why : DecodeError),
    AtDecodeStep s → s.run = 0 → s.src = delivers new → decode (s.rdBuf ++ new) = .rejected why →
    engineStep s = .next { s with src := [], rdBuf := s.rdBuf ++ new, hist := s.hist ++ new.map .readByte }

/-- R192, R228, R236 (b), R295, R297: a chunk cut short by `Eof` raises `UnexpectedEof`, by `IoErr` raises `IoError`. -/
def Obligations.ChunkCutShortRaises : Prop :=
  ∀ (s : State) (new : List Byte) (rest : List SrcAnswer) (why : DecodeError),
    AtDecodeStep s → s.run = 0 → decode (s.rdBuf ++ new) = .rejected why →
    (s.src = delivers new ++ .eof :: rest → ∃ t, engineStep s = .next t ∧
      ErrorReported .unexpectedEof 0 rest s.snk (new.map .readByte ++ [.readEof]) s t) ∧
    (s.src = delivers new ++ .ioErr :: rest → ∃ t, engineStep s = .next t ∧
      ErrorReported .ioError 0 rest s.snk (new.map .readByte ++ [.readIoErr]) s t)

/-- R191 with R200: a run continuation lowers `run`, outputs `prev`, reads nothing, leaves cache and `prev`. -/
def Obligations.RunContinuationRepeatsPrevious : Prop :=
  ∀ (s : State) (rest : List SnkAnswer), AtDecodeStep s → s.run ≠ 0 →
    s.snk = oks ((pixelBytes s.metaChannels s.prev).drop s.wrCnt).length ++ rest →
    ∃ t, engineStep s = .next t ∧ t.run.toNat = s.run.toNat - 1 ∧
      t = { s with run := s.run - 1, pixDone := s.pixDone + 1, rdBuf := [], wrCnt := 0, snk := rest,
                   hist := s.hist ++ ((pixelBytes s.metaChannels s.prev).drop s.wrCnt).map .wrote }

/-- R198 whole: a `RUN` byte 0xC0 + (count - 1) is read in one step, and `n` steps (of at most `count`, and where that many
pixels remain) output `prev` `n` times, read nothing more and leave `run` at `count - n`: `count - 1` after the first, 0 after
`count` steps, more than 0 where the image ends before the run. Cache and `prev` stay. -/
def Obligations.RunChunkYieldsCountPixels : Prop :=
  ∀ (s : State) (b0 : Byte) (count n : Nat) (rest : List SrcAnswer) (snkRest : List SnkAnswer),
    s.phase = .body → s.mode = .dec → s.run = 0 → s.rdBuf = [] → s.wrCnt = 0 → s.agenda = [] →
    1 ≤ n → n ≤ count → count ≤ 62 → b0.toNat = 0xC0 + count - 1 → s.src = .byte b0 :: rest →
    s.pixDone.toNat + n ≤ s.pixTotal.toNat →
    s.snk = oks (n * (pixelBytes s.metaChannels s.prev).length) ++ snkRest →
    Leads n s { s with
      src := rest, snk := snkRest, run := BitVec.ofNat 6 (count - n), pixDone := BitVec.ofNat 64 (s.pixDone.toNat + n),
      hist := s.hist ++ .readByte b0 :: (List.replicate n (pixelBytes s.metaChannels s.prev)).flatten.map .wrote }

/-! ## The encode pixel step

The hypotheses give the input pixel: the bytes read so far and those the source delivers next are the pixel's bytes, and
with 3 channels its alpha is `prev`'s (R161). -/

/-- R162, R163: a pixel equal to `prev` only raises the counter, the cache untouched; the one that makes it 62 emits `Run(62)`,
the byte 0xFD, and clears it. -/
def Obligations.RepeatedPixelExtendsRun : Prop :=
  ∀ (s : State) (new : List Byte) (rest : List SrcAnswer), AtEncodeStep s →
    s.src = delivers new ++ rest → s.rdBuf ++ new = pixelBytes s.metaChannels s.prev →
    (s.run.toNat < 61 → engineStep s = .next (afterEncPixel s.prev s.cache (s.run + 1) [] s.snk
      { s with src := rest, hist := s.hist ++ new.map .readByte })) ∧
    (∀ snkRest, s.run.toNat = 61 → s.snk = oks (([0xFD#8] : List Byte).drop s.wrCnt).length ++ snkRest →
      engineStep s = .next (afterEncPixel s.prev s.cache 0 (([0xFD#8] : List Byte).drop s.wrCnt) snkRest
        { s with src := rest, hist := s.hist ++ new.map .readByte }))

/-- R164, R165, R170: a pixel that differs from `prev` and stands in its slot: an open run is emitted, then the one byte of
`INDEX`; the cache stays, the pixel becomes `prev`. -/
def Obligations.CachedPixelEmitsIndex : Prop :=
  ∀ (s : State) (p : Pixel) (new out : List Byte) (rest : List SrcAnswer) (snkRest : List SnkAnswer), AtEncodeStep s →
    s.src = delivers new ++ rest → s.rdBuf ++ new = pixelBytes s.metaChannels p → (s.metaChannels ≠ 4 → p.a = s.prev.a) →
    p ≠ s.prev → lookup s.cache (pixelHash p) = p → s.run.toNat ≤ 61 →
    out = (if s.run = 0 then [] else [0xBF#8 + s.run.setWidth 8]) ++ [(pixelHash p).setWidth 8] →
    s.snk = oks (out.drop s.wrCnt).length ++ snkRest →
    engineStep s = .next (afterEncPixel p s.cache 0 (out.drop s.wrCnt) snkRest
      { s with src := rest, hist := s.hist ++ new.map .readByte })

/-- R164, R166 to R170: a pixel that differs from `prev` and misses the cache: an open run is emitted, then `COLOR` or `LUMA`
where `diff` gives one, else `RGB` where alpha is unchanged, else `RGBA`; its slot is replaced, it becomes `prev`. -/
def Obligations.UncachedPixelEmitsDifferenceOrLiteral : Prop :=
  ∀ (s : State) (p : Pixel) (new op out : List Byte) (rest : List SrcAnswer) (snkRest : List SnkAnswer), AtEncodeStep s →
    s.src = delivers new ++ rest → s.rdBuf ++ new = pixelBytes s.metaChannels p → (s.metaChannels ≠ 4 → p.a = s.prev.a) →
    p ≠ s.prev → lookup s.cache (pixelHash p) ≠ p → s.run.toNat ≤ 61 →
    op = (match diff p s.prev with
      | some (.color dr dg db) => [0x40#8 + 16 * dr.setWidth 8 + 4 * dg.setWidth 8 + db.setWidth 8]
      | some (.luma dg drg dbg) => [0x80#8 + dg.setWidth 8, 16 * drg.setWidth 8 + dbg.setWidth 8]
      | none => if p.a = s.prev.a then [0xFE#8, p.r, p.g, p.b] else [0xFF#8, p.r, p.g, p.b, p.a]) →
    out = (if s.run = 0 then [] else [0xBF#8 + s.run.setWidth 8]) ++ op →
    s.snk = oks (out.drop s.wrCnt).length ++ snkRest →
    engineStep s = .next (afterEncPixel p (s.cache.set (pixelHash p).toNat p (pixelHash p).isLt) 0 (out.drop s.wrCnt) snkRest
      { s with src := rest, hist := s.hist ++ new.map .readByte })

/-- R161, R295, R297: an input pixel cut short by `Eof` raises `UnexpectedEof`, by `IoErr` raises `IoError`; unanswered, the
step waits with the bytes it has. -/
def Obligations.InputPixelCutShort : Prop :=
  ∀ (s : State) (new : List Byte) (rest : List SrcAnswer), AtEncodeStep s →
    (s.rdBuf ++ new).length < (if s.metaChannels = 4 then 4 else 3) →
    (s.src = delivers new ++ .eof :: rest → ∃ t, engineStep s = .next t ∧
      ErrorReported .unexpectedEof 0 rest s.snk (new.map .readByte ++ [.readEof]) s t) ∧
    (s.src = delivers new ++ .ioErr :: rest → ∃ t, engineStep s = .next t ∧
      ErrorReported .ioError 0 rest s.snk (new.map .readByte ++ [.readIoErr]) s t) ∧
    (s.src = delivers new →
      engineStep s = .next { s with src := [], rdBuf := s.rdBuf ++ new, hist := s.hist ++ new.map .readByte })

/-- R145 (derived in the spec): what the encoder selects for a pixel, the decoder resolves to that pixel in the same codec
state, and both then hold the same cache. -/
def Obligations.SelectedChunkResolvesBack : Prop :=
  ∀ (s : State) (p : Pixel), p ≠ s.prev →
    resolved s (selectOp s.cache p s.prev).1 = p ∧ (selectOp s.cache p s.prev).2 = cacheInsert s.cache p ∧
    (selectOp s.cache p s.prev).1.wellFormed = true ∧ (∀ count, (selectOp s.cache p s.prev).1 ≠ .run count)

/-! ## Framing -/

/-- R253 (and R7: the product loses nothing in 64 bits): legal arguments write the 14 header bytes and enter the body. -/
def Obligations.EncodeHeaderWritesFourteenBytes : Prop :=
  ∀ (s : State) (out : List Byte) (snkRest : List SnkAnswer), s.phase = .header → s.mode = .enc →
    (s.metaChannels = 3 ∨ s.metaChannels = 4) → (s.metaColorspace = 0 ∨ s.metaColorspace = 1) →
    out = [0x71#8, 0x6F#8, 0x69#8, 0x66#8,
      s.metaWidth.extractLsb' 24 8, s.metaWidth.extractLsb' 16 8, s.metaWidth.extractLsb' 8 8, s.metaWidth.extractLsb' 0 8,
      s.metaHeight.extractLsb' 24 8, s.metaHeight.extractLsb' 16 8, s.metaHeight.extractLsb' 8 8, s.metaHeight.extractLsb' 0 8,
      s.metaChannels, s.metaColorspace] →
    s.snk = oks (out.drop s.wrCnt).length ++ snkRest →
    ∃ t, engineStep s = .next t ∧ t.pixTotal.toNat = s.metaWidth.toNat * s.metaHeight.toNat ∧
      t = { s with pixTotal := t.pixTotal, pixDone := 0, phase := .body, rdBuf := [], wrCnt := 0, snk := snkRest,
                   hist := s.hist ++ (out.drop s.wrCnt).map .wrote }

/-- R252: illegal arguments are refused before any byte is written, the channel count checked first. -/
def Obligations.EncodeHeaderRefusesIllegalMetadata : Prop :=
  ∀ s : State, s.phase = .header → s.mode = .enc →
    (s.metaChannels ≠ 3 ∧ s.metaChannels ≠ 4 → ∃ t, engineStep s = .next t ∧ ErrorReported .invalidHeader 0 s.src s.snk [] s t) ∧
    ((s.metaChannels = 3 ∨ s.metaChannels = 4) → s.metaColorspace ≠ 0 ∧ s.metaColorspace ≠ 1 →
      ∃ t, engineStep s = .next t ∧ ErrorReported .invalidColorspace s.metaColorspace s.src s.snk [] s t)

/-- R172, R255 up to the flush: an open run is emitted, then the trailer, and the phase becomes FLUSH. -/
def Obligations.EncodeFinishWritesTrailer : Prop :=
  ∀ (s : State) (out : List Byte) (snkRest : List SnkAnswer), s.phase = .trailer → s.run.toNat ≤ 61 →
    out = (if s.run = 0 then [] else [0xBF#8 + s.run.setWidth 8]) ++ [0#8, 0#8, 0#8, 0#8, 0#8, 0#8, 0#8, 1#8] →
    s.snk = oks (out.drop s.wrCnt).length ++ snkRest →
    engineStep s = .next { s with run := 0, phase := .flush, rdBuf := [], wrCnt := 0, snk := snkRest,
                                  hist := s.hist ++ (out.drop s.wrCnt).map .wrote }

/-- R55, R255, R262: the flush, answered `Ok`, ends the call; answered `IoErr`, raises `IoError`; unanswered, waits. -/
def Obligations.FlushEndsCall : Prop :=
  ∀ (s : State) (rest : List SnkAnswer), s.phase = .flush →
    (s.snk = .ok :: rest → engineStep s =
      .next { s with phase := .done, rdBuf := [], wrCnt := 0, snk := rest, hist := s.hist ++ [.flushed] }) ∧
    (s.snk = .ioErr :: rest → ∃ t, engineStep s = .next t ∧ ErrorReported .ioError 0 s.src rest [.flushIoErr] s t) ∧
    (s.snk = [] → engineStep s = .next s)

/-- R254, R261, R262: with no pixel left the body is left, to TRAILER in an encode call, to FLUSH in a decode call, and no
byte is read or written. -/
def Obligations.BodyEndsWhenAllPixelsDone : Prop :=
  ∀ s : State, s.phase = .body → s.pixTotal ≤ s.pixDone →
    (s.mode = .enc → engineStep s = .next { s with phase := .trailer }) ∧
    (s.mode = .dec → engineStep s = .next { s with phase := .flush, rdBuf := [], wrCnt := 0 })

/-- R257 to R260: a legal header fills the four registers and enters the body. -/
def Obligations.DecodeHeaderParses : Prop :=
  ∀ (s : State) (w h : BitVec 32) (ch cs : Byte) (new : List Byte) (rest : List SrcAnswer), s.phase = .header → s.mode = .dec →
    (ch = 3 ∨ ch = 4) → (cs = 0 ∨ cs = 1) → s.src = delivers new ++ rest →
    s.rdBuf ++ new = [0x71#8, 0x6F#8, 0x69#8, 0x66#8,
      w.extractLsb' 24 8, w.extractLsb' 16 8, w.extractLsb' 8 8, w.extractLsb' 0 8,
      h.extractLsb' 24 8, h.extractLsb' 16 8, h.extractLsb' 8 8, h.extractLsb' 0 8, ch, cs] →
    ∃ t, engineStep s = .next t ∧ t.pixTotal.toNat = w.toNat * h.toNat ∧
      t = { s with metaWidth := w, metaHeight := h, metaChannels := ch, metaColorspace := cs, pixTotal := t.pixTotal,
                   pixDone := 0, phase := .body, rdBuf := [], wrCnt := 0, src := rest, hist := s.hist ++ new.map .readByte }

/-- R257, R259, R260: a wrong magic raises `InvalidHeader` after exactly 4 bytes, an illegal channel byte `InvalidHeader`
after exactly 13, an illegal colorspace byte `InvalidColorspace` with that byte after exactly 14. The `META_*` registers are
not spoken of (R268). -/
def Obligations.DecodeHeaderRefusesIllegalFields : Prop :=
  ∀ (s : State) (rest : List SrcAnswer), s.phase = .header → s.mode = .dec → s.rdBuf = [] →
    (∀ m : List Byte, m.length = 4 → m ≠ [0x71#8, 0x6F#8, 0x69#8, 0x66#8] → s.src = delivers m ++ rest →
      ∃ t, engineStep s = .next t ∧ ErrorReported .invalidHeader 0 rest s.snk (m.map .readByte) s t) ∧
    (∀ (m : List Byte) (ch : Byte), m.length = 12 → m.take 4 = [0x71#8, 0x6F#8, 0x69#8, 0x66#8] → ch ≠ 3 ∧ ch ≠ 4 →
      s.src = delivers (m ++ [ch]) ++ rest →
      ∃ t, engineStep s = .next t ∧ ErrorReported .invalidHeader 0 rest s.snk ((m ++ [ch]).map .readByte) s t) ∧
    (∀ (m : List Byte) (ch cs : Byte), m.length = 12 → m.take 4 = [0x71#8, 0x6F#8, 0x69#8, 0x66#8] → (ch = 3 ∨ ch = 4) →
      cs ≠ 0 ∧ cs ≠ 1 → s.src = delivers (m ++ [ch, cs]) ++ rest →
      ∃ t, engineStep s = .next t ∧ ErrorReported .invalidColorspace cs rest s.snk ((m ++ [ch, cs]).map .readByte) s t)

/-- R257 to R260: a header cut short by `Eof` reports by the place of the first byte that lacks (the spec's decision D11, log
entry 13): bytes 0..3 `InvalidHeader`, 4..11 `InvalidDimensions`, 12 and 13 `UnexpectedEof`. -/
def Obligations.TruncatedHeaderByPosition : Prop :=
  ∀ (s : State) (m : List Byte) (w h : BitVec 32) (ch cs : Byte) (rest : List SrcAnswer), s.phase = .header → s.mode = .dec →
    s.rdBuf = [] → (ch = 3 ∨ ch = 4) → m.length < 14 → m = (headerBytes w h ch cs).take m.length →
    s.src = delivers m ++ .eof :: rest →
    ∃ t, engineStep s = .next t ∧
      ErrorReported (if m.length < 4 then .invalidHeader else if m.length < 12 then .invalidDimensions else .unexpectedEof)
        0 rest s.snk (m.map .readByte ++ [.readEof]) s t

/-! ## Waiting outside the chunks

With `ChunkWaitsForSink`, `ChunkFetchWaits`, `InputPixelCutShort` and `FlushEndsCall`, this is every place where the engine
waits at a port. -/

/-- R57, R313: where the sink leaves a byte of an encode pixel step, a run continuation, the encode header or the encode finish
unanswered, or the source a byte of the decode header, the engine waits. The bytes accepted or read stay; `cache`, `prev`,
`run`, the counters, `MODE`, `PHASE` and the error registers are as before, and so are the `META_*` registers, but for those
the decode header has read in full by then (R258, R259). -/
def Obligations.UnansweredPortRetainsRegisters : Prop :=
  (∀ (s : State) (p : Pixel) (plan : EncPlan) (new : List Byte) (rest : List SrcAnswer) (k : Nat), AtEncodeStep s →
    s.src = delivers new ++ rest → s.rdBuf ++ new = pixelBytes s.metaChannels p → (s.metaChannels ≠ 4 → p.a = s.prev.a) →
    encPlan s.cache s.run p s.prev = some plan → k < (plan.out.drop s.wrCnt).length → s.snk = oks k →
    engineStep s = .next { s with
      src := rest, rdBuf := s.rdBuf ++ new, snk := [], wrCnt := s.wrCnt + k,
      hist := s.hist ++ new.map .readByte ++ ((plan.out.drop s.wrCnt).take k).map .wrote }) ∧
  (∀ (s : State) (k : Nat), AtDecodeStep s → s.run ≠ 0 →
    k < ((pixelBytes s.metaChannels s.prev).drop s.wrCnt).length → s.snk = oks k →
    engineStep s = .next { s with
      snk := [], wrCnt := s.wrCnt + k,
      hist := s.hist ++ (((pixelBytes s.metaChannels s.prev).drop s.wrCnt).take k).map .wrote }) ∧
  (∀ (s : State) (out : List Byte) (k : Nat), s.phase = .header → s.mode = .enc →
    (s.metaChannels = 3 ∨ s.metaChannels = 4) → (s.metaColorspace = 0 ∨ s.metaColorspace = 1) →
    out = headerBytes s.metaWidth s.metaHeight s.metaChannels s.metaColorspace →
    k < (out.drop s.wrCnt).length → s.snk = oks k →
    engineStep s = .next { s with
      snk := [], wrCnt := s.wrCnt + k, hist := s.hist ++ ((out.drop s.wrCnt).take k).map .wrote }) ∧
  (∀ (s : State) (out : List Byte) (k : Nat), s.phase = .trailer → s.run.toNat ≤ 61 →
    out = (if s.run = 0 then [] else [0xBF#8 + s.run.setWidth 8]) ++ [0#8, 0#8, 0#8, 0#8, 0#8, 0#8, 0#8, 1#8] →
    k < (out.drop s.wrCnt).length → s.snk = oks k →
    engineStep s = .next { s with
      snk := [], wrCnt := s.wrCnt + k, hist := s.hist ++ ((out.drop s.wrCnt).take k).map .wrote }) ∧
  (∀ (s : State) (m new : List Byte) (w h : BitVec 32) (ch cs : Byte), s.phase = .header → s.mode = .dec →
    (ch = 3 ∨ ch = 4) → m.length < 14 → m = (headerBytes w h ch cs).take m.length → s.src = delivers new → s.rdBuf ++ new = m →
    engineStep s = .next { s with
      metaWidth := if 8 ≤ m.length then w else s.metaWidth,
      metaHeight := if 12 ≤ m.length then h else s.metaHeight,
      metaChannels := if 13 ≤ m.length then ch else s.metaChannels,
      src := [], rdBuf := m, hist := s.hist ++ new.map .readByte })

/-! ## Commands, reset, errors -/

/-- R251, R256: an accepted command; the `META_*` registers, the ports and the history stay. -/
def Obligations.CommandStartsCall : Prop :=
  ∀ s : State, s.phase = .idle ∨ s.phase = .done ∨ s.phase = .error →
    applyEvent .startEnc s = { s with
      mode := .enc, errKind := .none, errByte := 0, cache := Vector.replicate 64 ⟨0, 0, 0, 0⟩, prev := ⟨0, 0, 0, 255⟩, run := 0,
      pixDone := 0, pixTotal := 0, phase := .header, rdBuf := [], wrCnt := 0 } ∧
    applyEvent .startDec s = { s with
      mode := .dec, errKind := .none, errByte := 0, cache := Vector.replicate 64 ⟨0, 0, 0, 0⟩, prev := ⟨0, 0, 0, 255⟩, run := 0,
      pixDone := 0, pixTotal := 0, phase := .header, rdBuf := [], wrCnt := 0 }

/-- R33 to R36, R250, R265, R336: while busy, commands and host writes change nothing; otherwise a write changes its register
and nothing else. -/
def Obligations.BusyEngineIgnoresHost : Prop :=
  ∀ s : State,
    (s.phase = .header ∨ s.phase = .body ∨ s.phase = .trailer ∨ s.phase = .flush →
      applyEvent .startEnc s = s ∧ applyEvent .startDec s = s ∧ ∀ w, applyEvent (.write w) s = s) ∧
    (s.phase = .idle ∨ s.phase = .done ∨ s.phase = .error →
      (∀ v, applyEvent (.write (.width v)) s = { s with metaWidth := v }) ∧
      (∀ v, applyEvent (.write (.height v)) s = { s with metaHeight := v }) ∧
      (∀ v, applyEvent (.write (.channels v)) s = { s with metaChannels := v }) ∧
      (∀ v, applyEvent (.write (.colorspace v)) s = { s with metaColorspace := v }))

/-- R330: hardware reset, in any phase, puts every register at its reset value; bytes accepted stay accepted, no port operation
is made, and the engine does nothing after it by itself. That the port answers, the agenda and `freeCount` stay, and that a
pending handshake leaves nothing in the history (U9 leaves it open), is the model's choice: log entries 20 and 22. -/
def Obligations.HardwareResetRestoresRegisters : Prop :=
  ∀ s : State, applyEvent .reset s =
    { State.reset with src := s.src, snk := s.snk, agenda := s.agenda, hist := s.hist, freeCount := s.freeCount } ∧
    engineStep (applyEvent .reset s) = .next (applyEvent .reset s)

/-- The table of 10_state.md section 8 (R28, R31 to R38): every register right after reset. And in every state (R32 to R39,
R290, R307): what a host reads is the register, `MODE`, `PHASE` and `ERR_KIND` by their codes, zero-extended (the width of the
word read is the model's choice, log entry 15), and the outputs `done` and `error` are high exactly in `DONE` and `ERROR`. -/
def Obligations.ResetRegisterValues : Prop :=
  (∀ idx, lookup State.reset.cache idx = ⟨0, 0, 0, 0⟩) ∧ State.reset.prev = ⟨0, 0, 0, 255⟩ ∧ State.reset.run = 0 ∧
  State.reset.pixTotal = 0 ∧ State.reset.pixDone = 0 ∧ State.reset.mode = .enc ∧ State.reset.phase = .idle ∧
  State.reset.errKind = .none ∧ (∀ reg, State.reset.hostRead reg = 0) ∧
  State.reset.doneOut = false ∧ State.reset.errorOut = false ∧
  (∀ s : State,
    (s.hostRead .mode).toNat = (match s.mode with | .enc => 0 | .dec => 1) ∧
    s.hostRead .metaWidth = s.metaWidth ∧ s.hostRead .metaHeight = s.metaHeight ∧
    (s.hostRead .metaChannels).toNat = s.metaChannels.toNat ∧ (s.hostRead .metaColorspace).toNat = s.metaColorspace.toNat ∧
    (s.hostRead .phase).toNat = (match s.phase with
      | .idle => 0 | .header => 1 | .body => 2 | .trailer => 3 | .flush => 4 | .done => 5 | .error => 6) ∧
    (s.hostRead .errKind).toNat = (match s.errKind with
      | .none => 0 | .invalidHeader => 1 | .invalidColorspace => 2 | .invalidDimensions => 3 | .invalidIndex => 4
      | .unexpectedEof => 5 | .unknownTag => 6 | .ioError => 7) ∧
    (s.hostRead .errByte).toNat = s.errByte.toNat ∧
    (s.doneOut = true ↔ s.phase = .done) ∧ (s.errorOut = true ↔ s.phase = .error))

/-- R290, R300: the error entry records the code and the byte, enters ERROR, performs no port operation, and the engine stays
there by itself. -/
def Obligations.ErrorEntryRecordsKind : Prop :=
  ∀ (e : CoreError) (s : State),
    (errorEntry e s).phase = .error ∧ (errorEntry e s).errKind = e.kind ∧ (errorEntry e s).errByte = e.byte ∧
    (errorEntry e s).hist = s.hist ∧ (errorEntry e s).src = s.src ∧ (errorEntry e s).snk = s.snk ∧ (errorEntry e s).mode = s.mode ∧
    engineStep (errorEntry e s) = .next (errorEntry e s) ∧
    e.kind.code = (match e with
      | .invalidHeader => 1 | .invalidColorspace _ => 2 | .invalidDimensions => 3 | .invalidIndex _ => 4
      | .unexpectedEof => 5 | .unknownTag _ => 6 | .ioError => 7) ∧
    e.byte = (match e with
      | .invalidColorspace b => b | .invalidIndex b => b | .unknownTag b => b
      | .invalidHeader => 0 | .invalidDimensions => 0 | .unexpectedEof => 0 | .ioError => 0)

/-- R27, R331: no register of an earlier call influences a later one but the `META_*` registers: two resting engines that agree
on these (and on the world outside) are the same machine once a call has started. -/
def Obligations.CallStartsFresh : Prop :=
  ∀ (m : Mode) (s u : State), s.phase.busy = false → u.phase.busy = false →
    s.metaWidth = u.metaWidth → s.metaHeight = u.metaHeight → s.metaChannels = u.metaChannels →
    s.metaColorspace = u.metaColorspace → s.src = u.src → s.snk = u.snk → s.agenda = u.agenda → s.hist = u.hist →
    s.freeCount = u.freeCount → command m s = command m u

/-! ## The whole machine -/

/-- The invariant holds right after reset. -/
def Obligations.ResetIsLegal : Prop := Inv State.reset

/-- R23 to R25, R31, R35 to R38, R161, R294, R296: every step from a legal state answers a legal state. -/
def Obligations.StepKeepsLegal : Prop := ∀ s s' : State, Inv s → step s = .next s' → Inv s'

/-- R220, R299, R57: a legal state always has a next one: this machine never stops by itself. -/
def Obligations.LegalStatesNeverStop : Prop := ∀ s : State, Inv s → ∃ s', step s = .next s'

/-- R266, R304, R305: one engine step moves PHASE only as the table says, leaves BODY for TRAILER or FLUSH only with every
pixel done, and changes MODE never; a host event moves it only to HEADER from rest, or to IDLE by reset. -/
def Obligations.PhaseMovesByTable : Prop :=
  (∀ s t : State, engineStep s = .next t → t.phase ∈ engineMoves s.mode s.phase ∧ t.mode = s.mode ∧
    (s.phase = .body → t.phase = .trailer ∨ t.phase = .flush → s.pixTotal ≤ s.pixDone)) ∧
  (∀ (e : HostEvent) (s : State), (applyEvent e s).phase = s.phase ∨
    (s.phase.busy = false ∧ (applyEvent e s).phase = .header ∧ (e = .startEnc ∨ e = .startDec)) ∨
    ((applyEvent e s).phase = .idle ∧ e = .reset))

/-- R52, R66, R302, R313: an engine step passes no port operation without its answer, takes the answers in order, and takes
back nothing: what it adds to the history is exactly the answers it consumed. -/
def Obligations.PortOperationsAreAnswered : Prop :=
  ∀ s t : State, engineStep s = .next t → ∃ events,
    t.hist = s.hist ++ events ∧ s.src = srcAnswered events ++ t.src ∧ s.snk = snkAnswered events ++ t.snk

/-- R55, R67, R300: the flush is made in phase FLUSH only and its `Ok` is the step into DONE; nothing else leads there. -/
def Obligations.FlushIsTheLastOperation : Prop :=
  ∀ (s t : State) (events : List PortEvent), engineStep s = .next t → t.hist = s.hist ++ events →
    (.flushed ∈ events ↔ s.phase = .flush ∧ t.phase = .done) ∧
    (t.phase = .done → s.phase = .done ∨ (s.phase = .flush ∧ events = [.flushed]))

/-- R297, R300: whichever port operation answers `IoErr`, in any phase, the call ends with `IoError` and no byte, and that
operation is the last one of the step; `IoError` has no other cause. -/
def Obligations.IoErrorExactlyFromPorts : Prop :=
  ∀ (s t : State) (events : List PortEvent), engineStep s = .next t → t.hist = s.hist ++ events → s.phase ≠ .error →
    s.errKind = .none →
    ((t.phase = .error ∧ t.errKind = .ioError) ↔
      ∃ before e, events = before ++ [e] ∧ (e = .readIoErr ∨ e = .flushIoErr ∨ ∃ b, e = .writeIoErr b)) ∧
    (∀ e ∈ events, (e = .readIoErr ∨ e = .flushIoErr ∨ ∃ b, e = .writeIoErr b) →
      t.phase = .error ∧ t.errKind = .ioError ∧ t.errByte = 0)

/-- R294, R296: no step raises `InvalidIndex` or `UnknownTag`. -/
def Obligations.UnreachableErrorsNeverRaised : Prop :=
  ∀ s t : State, step s = .next t →
    (t.errKind = .invalidIndex → s.errKind = .invalidIndex) ∧ (t.errKind = .unknownTag → s.errKind = .unknownTag)

/-- R338: from the body on, whatever the ports answer (bytes, `Eof`, `IoErr`), so long as they answer and the host does
nothing, a call in a legal state reaches DONE or ERROR after finitely many steps. -/
def Obligations.AnsweredBodyReachesEnd : Prop :=
  ∀ s : State, Inv s → s.phase.afterHeader = true → s.agenda = [] →
    5 * (s.pixTotal.toNat - s.pixDone.toNat) ≤ s.src.length →
    6 * (s.pixTotal.toNat - s.pixDone.toNat) + 10 ≤ s.snk.length →
    ∃ n t, Leads n s t ∧ (t.phase = .done ∨ t.phase = .error)

/-- R270: the round trip. An encode call on legal metadata and exactly the pixel bytes ends in DONE; its sink stream, as the
source of a decode call, ends in DONE with the same metadata and the original pixel bytes. -/
def Obligations.EncodeThenDecodeIsIdentity : Prop :=
  ∀ (s : State) (px : List Byte) (more : List SrcAnswer) (k : Nat),
    s.phase.busy = false → s.agenda = [(0, .startEnc)] →
    (s.metaChannels = 3 ∨ s.metaChannels = 4) → (s.metaColorspace = 0 ∨ s.metaColorspace = 1) →
    px.length = s.metaWidth.toNat * s.metaHeight.toNat * s.metaChannels.toNat → s.src = delivers px ++ more →
    s.snk = oks k → 6 * (s.metaWidth.toNat * s.metaHeight.toNat) + 24 ≤ k →
    ∃ n e h, Leads n s e ∧ e.phase = .done ∧ e.hist = s.hist ++ h ∧ e.src = more ∧
      ∀ (d : State) (tail : List SrcAnswer) (j : Nat), d.phase.busy = false → d.agenda = [(0, .startDec)] →
        d.src = delivers (sinkBytes h) ++ tail → d.snk = oks j → px.length + 1 ≤ j →
        ∃ m f h', Leads m d f ∧ f.phase = .done ∧ f.metaWidth = s.metaWidth ∧ f.metaHeight = s.metaHeight ∧
          f.metaChannels = s.metaChannels ∧ f.metaColorspace = s.metaColorspace ∧ f.hist = d.hist ++ h' ∧ sinkBytes h' = px
end

