-- ==== Sys2Proof/Laws/State.lean ====
section
/-! SUPPORT. The small lemmas of every named update of State: one per field, each true by rfl, so that no later proof
unfolds a record update. -/

namespace Sys2Proof.Machine

/-! ### initCodec -/

@[simp] theorem initCodec_cache (s : State) : (initCodec s).cache = Vector.replicate 64 Pixel.clear := rfl
@[simp] theorem initCodec_prev (s : State) : (initCodec s).prev = Pixel.black := rfl
@[simp] theorem initCodec_run (s : State) : (initCodec s).run = 0 := rfl
@[simp] theorem initCodec_pixTotal (s : State) : (initCodec s).pixTotal = s.pixTotal := rfl
@[simp] theorem initCodec_pixDone (s : State) : (initCodec s).pixDone = s.pixDone := rfl
@[simp] theorem initCodec_mode (s : State) : (initCodec s).mode = s.mode := rfl
@[simp] theorem initCodec_metaWidth (s : State) : (initCodec s).metaWidth = s.metaWidth := rfl
@[simp] theorem initCodec_metaHeight (s : State) : (initCodec s).metaHeight = s.metaHeight := rfl
@[simp] theorem initCodec_metaChannels (s : State) : (initCodec s).metaChannels = s.metaChannels := rfl
@[simp] theorem initCodec_metaColorspace (s : State) : (initCodec s).metaColorspace = s.metaColorspace := rfl
@[simp] theorem initCodec_phase (s : State) : (initCodec s).phase = s.phase := rfl
@[simp] theorem initCodec_errKind (s : State) : (initCodec s).errKind = s.errKind := rfl
@[simp] theorem initCodec_errByte (s : State) : (initCodec s).errByte = s.errByte := rfl
@[simp] theorem initCodec_rdBuf (s : State) : (initCodec s).rdBuf = s.rdBuf := rfl
@[simp] theorem initCodec_wrCnt (s : State) : (initCodec s).wrCnt = s.wrCnt := rfl
@[simp] theorem initCodec_src (s : State) : (initCodec s).src = s.src := rfl
@[simp] theorem initCodec_snk (s : State) : (initCodec s).snk = s.snk := rfl
@[simp] theorem initCodec_agenda (s : State) : (initCodec s).agenda = s.agenda := rfl
@[simp] theorem initCodec_hist (s : State) : (initCodec s).hist = s.hist := rfl
@[simp] theorem initCodec_freeCount (s : State) : (initCodec s).freeCount = s.freeCount := rfl

/-! ### endStep -/

@[simp] theorem endStep_cache (s : State) : (endStep s).cache = s.cache := rfl
@[simp] theorem endStep_prev (s : State) : (endStep s).prev = s.prev := rfl
@[simp] theorem endStep_run (s : State) : (endStep s).run = s.run := rfl
@[simp] theorem endStep_pixTotal (s : State) : (endStep s).pixTotal = s.pixTotal := rfl
@[simp] theorem endStep_pixDone (s : State) : (endStep s).pixDone = s.pixDone := rfl
@[simp] theorem endStep_mode (s : State) : (endStep s).mode = s.mode := rfl
@[simp] theorem endStep_metaWidth (s : State) : (endStep s).metaWidth = s.metaWidth := rfl
@[simp] theorem endStep_metaHeight (s : State) : (endStep s).metaHeight = s.metaHeight := rfl
@[simp] theorem endStep_metaChannels (s : State) : (endStep s).metaChannels = s.metaChannels := rfl
@[simp] theorem endStep_metaColorspace (s : State) : (endStep s).metaColorspace = s.metaColorspace := rfl
@[simp] theorem endStep_phase (s : State) : (endStep s).phase = s.phase := rfl
@[simp] theorem endStep_errKind (s : State) : (endStep s).errKind = s.errKind := rfl
@[simp] theorem endStep_errByte (s : State) : (endStep s).errByte = s.errByte := rfl
@[simp] theorem endStep_rdBuf (s : State) : (endStep s).rdBuf = [] := rfl
@[simp] theorem endStep_wrCnt (s : State) : (endStep s).wrCnt = 0 := rfl
@[simp] theorem endStep_src (s : State) : (endStep s).src = s.src := rfl
@[simp] theorem endStep_snk (s : State) : (endStep s).snk = s.snk := rfl
@[simp] theorem endStep_agenda (s : State) : (endStep s).agenda = s.agenda := rfl
@[simp] theorem endStep_hist (s : State) : (endStep s).hist = s.hist := rfl
@[simp] theorem endStep_freeCount (s : State) : (endStep s).freeCount = s.freeCount := rfl

/-! ### hwReset -/

@[simp] theorem hwReset_cache (s : State) : (hwReset s).cache = State.reset.cache := rfl
@[simp] theorem hwReset_prev (s : State) : (hwReset s).prev = State.reset.prev := rfl
@[simp] theorem hwReset_run (s : State) : (hwReset s).run = State.reset.run := rfl
@[simp] theorem hwReset_pixTotal (s : State) : (hwReset s).pixTotal = State.reset.pixTotal := rfl
@[simp] theorem hwReset_pixDone (s : State) : (hwReset s).pixDone = State.reset.pixDone := rfl
@[simp] theorem hwReset_mode (s : State) : (hwReset s).mode = State.reset.mode := rfl
@[simp] theorem hwReset_metaWidth (s : State) : (hwReset s).metaWidth = State.reset.metaWidth := rfl
@[simp] theorem hwReset_metaHeight (s : State) : (hwReset s).metaHeight = State.reset.metaHeight := rfl
@[simp] theorem hwReset_metaChannels (s : State) : (hwReset s).metaChannels = State.reset.metaChannels := rfl
@[simp] theorem hwReset_metaColorspace (s : State) : (hwReset s).metaColorspace = State.reset.metaColorspace := rfl
@[simp] theorem hwReset_phase (s : State) : (hwReset s).phase = State.reset.phase := rfl
@[simp] theorem hwReset_errKind (s : State) : (hwReset s).errKind = State.reset.errKind := rfl
@[simp] theorem hwReset_errByte (s : State) : (hwReset s).errByte = State.reset.errByte := rfl
@[simp] theorem hwReset_rdBuf (s : State) : (hwReset s).rdBuf = State.reset.rdBuf := rfl
@[simp] theorem hwReset_wrCnt (s : State) : (hwReset s).wrCnt = State.reset.wrCnt := rfl
@[simp] theorem hwReset_src (s : State) : (hwReset s).src = s.src := rfl
@[simp] theorem hwReset_snk (s : State) : (hwReset s).snk = s.snk := rfl
@[simp] theorem hwReset_agenda (s : State) : (hwReset s).agenda = s.agenda := rfl
@[simp] theorem hwReset_hist (s : State) : (hwReset s).hist = s.hist := rfl
@[simp] theorem hwReset_freeCount (s : State) : (hwReset s).freeCount = s.freeCount := rfl

/-! ### errorEntry -/

@[simp] theorem errorEntry_cache (e : CoreError) (s : State) : (errorEntry e s).cache = Config.freeCache s.freeCount := rfl
@[simp] theorem errorEntry_prev (e : CoreError) (s : State) : (errorEntry e s).prev = Config.freePrev s.freeCount := rfl
@[simp] theorem errorEntry_run (e : CoreError) (s : State) : (errorEntry e s).run = Config.freeRun s.freeCount := rfl
@[simp] theorem errorEntry_pixTotal (e : CoreError) (s : State) : (errorEntry e s).pixTotal = Config.freePixTotal s.freeCount := rfl
@[simp] theorem errorEntry_pixDone (e : CoreError) (s : State) : (errorEntry e s).pixDone = Config.freePixDone s.freeCount := rfl
@[simp] theorem errorEntry_mode (e : CoreError) (s : State) : (errorEntry e s).mode = s.mode := rfl
@[simp] theorem errorEntry_metaWidth (e : CoreError) (s : State) : (errorEntry e s).metaWidth = if s.mode = .dec ∧ s.phase = .header then Config.freeMetaWidth s.freeCount else s.metaWidth := rfl
@[simp] theorem errorEntry_metaHeight (e : CoreError) (s : State) : (errorEntry e s).metaHeight = if s.mode = .dec ∧ s.phase = .header then Config.freeMetaHeight s.freeCount else s.metaHeight := rfl
@[simp] theorem errorEntry_metaChannels (e : CoreError) (s : State) : (errorEntry e s).metaChannels = if s.mode = .dec ∧ s.phase = .header then Config.freeMetaChannels s.freeCount else s.metaChannels := rfl
@[simp] theorem errorEntry_metaColorspace (e : CoreError) (s : State) : (errorEntry e s).metaColorspace = if s.mode = .dec ∧ s.phase = .header then Config.freeMetaColorspace s.freeCount else s.metaColorspace := rfl
@[simp] theorem errorEntry_phase (e : CoreError) (s : State) : (errorEntry e s).phase = .error := rfl
@[simp] theorem errorEntry_errKind (e : CoreError) (s : State) : (errorEntry e s).errKind = e.kind := rfl
@[simp] theorem errorEntry_errByte (e : CoreError) (s : State) : (errorEntry e s).errByte = e.byte := rfl
@[simp] theorem errorEntry_rdBuf (e : CoreError) (s : State) : (errorEntry e s).rdBuf = [] := rfl
@[simp] theorem errorEntry_wrCnt (e : CoreError) (s : State) : (errorEntry e s).wrCnt = 0 := rfl
@[simp] theorem errorEntry_src (e : CoreError) (s : State) : (errorEntry e s).src = s.src := rfl
@[simp] theorem errorEntry_snk (e : CoreError) (s : State) : (errorEntry e s).snk = s.snk := rfl
@[simp] theorem errorEntry_agenda (e : CoreError) (s : State) : (errorEntry e s).agenda = s.agenda := rfl
@[simp] theorem errorEntry_hist (e : CoreError) (s : State) : (errorEntry e s).hist = s.hist := rfl
@[simp] theorem errorEntry_freeCount (e : CoreError) (s : State) : (errorEntry e s).freeCount = s.freeCount + 1 := rfl

/-! ### enterBody -/

@[simp] theorem enterBody_cache (s : State) : (enterBody s).cache = s.cache := rfl
@[simp] theorem enterBody_prev (s : State) : (enterBody s).prev = s.prev := rfl
@[simp] theorem enterBody_run (s : State) : (enterBody s).run = s.run := rfl
@[simp] theorem enterBody_pixTotal (s : State) : (enterBody s).pixTotal = pixelCount s.metaWidth s.metaHeight := rfl
@[simp] theorem enterBody_pixDone (s : State) : (enterBody s).pixDone = 0 := rfl
@[simp] theorem enterBody_mode (s : State) : (enterBody s).mode = s.mode := rfl
@[simp] theorem enterBody_metaWidth (s : State) : (enterBody s).metaWidth = s.metaWidth := rfl
@[simp] theorem enterBody_metaHeight (s : State) : (enterBody s).metaHeight = s.metaHeight := rfl
@[simp] theorem enterBody_metaChannels (s : State) : (enterBody s).metaChannels = s.metaChannels := rfl
@[simp] theorem enterBody_metaColorspace (s : State) : (enterBody s).metaColorspace = s.metaColorspace := rfl
@[simp] theorem enterBody_phase (s : State) : (enterBody s).phase = .body := rfl
@[simp] theorem enterBody_errKind (s : State) : (enterBody s).errKind = s.errKind := rfl
@[simp] theorem enterBody_errByte (s : State) : (enterBody s).errByte = s.errByte := rfl
@[simp] theorem enterBody_rdBuf (s : State) : (enterBody s).rdBuf = [] := rfl
@[simp] theorem enterBody_wrCnt (s : State) : (enterBody s).wrCnt = 0 := rfl
@[simp] theorem enterBody_src (s : State) : (enterBody s).src = s.src := rfl
@[simp] theorem enterBody_snk (s : State) : (enterBody s).snk = s.snk := rfl
@[simp] theorem enterBody_agenda (s : State) : (enterBody s).agenda = s.agenda := rfl
@[simp] theorem enterBody_hist (s : State) : (enterBody s).hist = s.hist := rfl
@[simp] theorem enterBody_freeCount (s : State) : (enterBody s).freeCount = s.freeCount := rfl

/-! ### startCall -/

@[simp] theorem startCall_cache (m : Mode) (s : State) : (startCall m s).cache = Vector.replicate 64 Pixel.clear := rfl
@[simp] theorem startCall_prev (m : Mode) (s : State) : (startCall m s).prev = Pixel.black := rfl
@[simp] theorem startCall_run (m : Mode) (s : State) : (startCall m s).run = 0 := rfl
@[simp] theorem startCall_pixTotal (m : Mode) (s : State) : (startCall m s).pixTotal = 0 := rfl
@[simp] theorem startCall_pixDone (m : Mode) (s : State) : (startCall m s).pixDone = 0 := rfl
@[simp] theorem startCall_mode (m : Mode) (s : State) : (startCall m s).mode = m := rfl
@[simp] theorem startCall_metaWidth (m : Mode) (s : State) : (startCall m s).metaWidth = s.metaWidth := rfl
@[simp] theorem startCall_metaHeight (m : Mode) (s : State) : (startCall m s).metaHeight = s.metaHeight := rfl
@[simp] theorem startCall_metaChannels (m : Mode) (s : State) : (startCall m s).metaChannels = s.metaChannels := rfl
@[simp] theorem startCall_metaColorspace (m : Mode) (s : State) : (startCall m s).metaColorspace = s.metaColorspace := rfl
@[simp] theorem startCall_phase (m : Mode) (s : State) : (startCall m s).phase = .header := rfl
@[simp] theorem startCall_errKind (m : Mode) (s : State) : (startCall m s).errKind = .none := rfl
@[simp] theorem startCall_errByte (m : Mode) (s : State) : (startCall m s).errByte = 0 := rfl
@[simp] theorem startCall_rdBuf (m : Mode) (s : State) : (startCall m s).rdBuf = [] := rfl
@[simp] theorem startCall_wrCnt (m : Mode) (s : State) : (startCall m s).wrCnt = 0 := rfl
@[simp] theorem startCall_src (m : Mode) (s : State) : (startCall m s).src = s.src := rfl
@[simp] theorem startCall_snk (m : Mode) (s : State) : (startCall m s).snk = s.snk := rfl
@[simp] theorem startCall_agenda (m : Mode) (s : State) : (startCall m s).agenda = s.agenda := rfl
@[simp] theorem startCall_hist (m : Mode) (s : State) : (startCall m s).hist = s.hist := rfl
@[simp] theorem startCall_freeCount (m : Mode) (s : State) : (startCall m s).freeCount = s.freeCount := rfl

/-! ### finishEncPixel -/

@[simp] theorem finishEncPixel_cache (p : Pixel) (plan : EncPlan) (s : State) : (finishEncPixel p plan s).cache = plan.cache := rfl
@[simp] theorem finishEncPixel_prev (p : Pixel) (plan : EncPlan) (s : State) : (finishEncPixel p plan s).prev = p := rfl
@[simp] theorem finishEncPixel_run (p : Pixel) (plan : EncPlan) (s : State) : (finishEncPixel p plan s).run = plan.run := rfl
@[simp] theorem finishEncPixel_pixTotal (p : Pixel) (plan : EncPlan) (s : State) : (finishEncPixel p plan s).pixTotal = s.pixTotal := rfl
@[simp] theorem finishEncPixel_pixDone (p : Pixel) (plan : EncPlan) (s : State) : (finishEncPixel p plan s).pixDone = s.pixDone + 1 := rfl
@[simp] theorem finishEncPixel_mode (p : Pixel) (plan : EncPlan) (s : State) : (finishEncPixel p plan s).mode = s.mode := rfl
@[simp] theorem finishEncPixel_metaWidth (p : Pixel) (plan : EncPlan) (s : State) : (finishEncPixel p plan s).metaWidth = s.metaWidth := rfl
@[simp] theorem finishEncPixel_metaHeight (p : Pixel) (plan : EncPlan) (s : State) : (finishEncPixel p plan s).metaHeight = s.metaHeight := rfl
@[simp] theorem finishEncPixel_metaChannels (p : Pixel) (plan : EncPlan) (s : State) : (finishEncPixel p plan s).metaChannels = s.metaChannels := rfl
@[simp] theorem finishEncPixel_metaColorspace (p : Pixel) (plan : EncPlan) (s : State) : (finishEncPixel p plan s).metaColorspace = s.metaColorspace := rfl
@[simp] theorem finishEncPixel_phase (p : Pixel) (plan : EncPlan) (s : State) : (finishEncPixel p plan s).phase = s.phase := rfl
@[simp] theorem finishEncPixel_errKind (p : Pixel) (plan : EncPlan) (s : State) : (finishEncPixel p plan s).errKind = s.errKind := rfl
@[simp] theorem finishEncPixel_errByte (p : Pixel) (plan : EncPlan) (s : State) : (finishEncPixel p plan s).errByte = s.errByte := rfl
@[simp] theorem finishEncPixel_rdBuf (p : Pixel) (plan : EncPlan) (s : State) : (finishEncPixel p plan s).rdBuf = [] := rfl
@[simp] theorem finishEncPixel_wrCnt (p : Pixel) (plan : EncPlan) (s : State) : (finishEncPixel p plan s).wrCnt = 0 := rfl
@[simp] theorem finishEncPixel_src (p : Pixel) (plan : EncPlan) (s : State) : (finishEncPixel p plan s).src = s.src := rfl
@[simp] theorem finishEncPixel_snk (p : Pixel) (plan : EncPlan) (s : State) : (finishEncPixel p plan s).snk = s.snk := rfl
@[simp] theorem finishEncPixel_agenda (p : Pixel) (plan : EncPlan) (s : State) : (finishEncPixel p plan s).agenda = s.agenda := rfl
@[simp] theorem finishEncPixel_hist (p : Pixel) (plan : EncPlan) (s : State) : (finishEncPixel p plan s).hist = s.hist := rfl
@[simp] theorem finishEncPixel_freeCount (p : Pixel) (plan : EncPlan) (s : State) : (finishEncPixel p plan s).freeCount = s.freeCount := rfl

/-! ### afterReads -/

@[simp] theorem afterReads_cache (bs : List Byte) (rest : List SrcAnswer) (s : State) : (afterReads bs rest s).cache = s.cache := rfl
@[simp] theorem afterReads_prev (bs : List Byte) (rest : List SrcAnswer) (s : State) : (afterReads bs rest s).prev = s.prev := rfl
@[simp] theorem afterReads_run (bs : List Byte) (rest : List SrcAnswer) (s : State) : (afterReads bs rest s).run = s.run := rfl
@[simp] theorem afterReads_pixTotal (bs : List Byte) (rest : List SrcAnswer) (s : State) : (afterReads bs rest s).pixTotal = s.pixTotal := rfl
@[simp] theorem afterReads_pixDone (bs : List Byte) (rest : List SrcAnswer) (s : State) : (afterReads bs rest s).pixDone = s.pixDone := rfl
@[simp] theorem afterReads_mode (bs : List Byte) (rest : List SrcAnswer) (s : State) : (afterReads bs rest s).mode = s.mode := rfl
@[simp] theorem afterReads_metaWidth (bs : List Byte) (rest : List SrcAnswer) (s : State) : (afterReads bs rest s).metaWidth = s.metaWidth := rfl
@[simp] theorem afterReads_metaHeight (bs : List Byte) (rest : List SrcAnswer) (s : State) : (afterReads bs rest s).metaHeight = s.metaHeight := rfl
@[simp] theorem afterReads_metaChannels (bs : List Byte) (rest : List SrcAnswer) (s : State) : (afterReads bs rest s).metaChannels = s.metaChannels := rfl
@[simp] theorem afterReads_metaColorspace (bs : List Byte) (rest : List SrcAnswer) (s : State) : (afterReads bs rest s).metaColorspace = s.metaColorspace := rfl
@[simp] theorem afterReads_phase (bs : List Byte) (rest : List SrcAnswer) (s : State) : (afterReads bs rest s).phase = s.phase := rfl
@[simp] theorem afterReads_errKind (bs : List Byte) (rest : List SrcAnswer) (s : State) : (afterReads bs rest s).errKind = s.errKind := rfl
@[simp] theorem afterReads_errByte (bs : List Byte) (rest : List SrcAnswer) (s : State) : (afterReads bs rest s).errByte = s.errByte := rfl
@[simp] theorem afterReads_rdBuf (bs : List Byte) (rest : List SrcAnswer) (s : State) : (afterReads bs rest s).rdBuf = s.rdBuf ++ bs := rfl
@[simp] theorem afterReads_wrCnt (bs : List Byte) (rest : List SrcAnswer) (s : State) : (afterReads bs rest s).wrCnt = s.wrCnt := rfl
@[simp] theorem afterReads_src (bs : List Byte) (rest : List SrcAnswer) (s : State) : (afterReads bs rest s).src = rest := rfl
@[simp] theorem afterReads_snk (bs : List Byte) (rest : List SrcAnswer) (s : State) : (afterReads bs rest s).snk = s.snk := rfl
@[simp] theorem afterReads_agenda (bs : List Byte) (rest : List SrcAnswer) (s : State) : (afterReads bs rest s).agenda = s.agenda := rfl
@[simp] theorem afterReads_hist (bs : List Byte) (rest : List SrcAnswer) (s : State) : (afterReads bs rest s).hist = s.hist ++ bs.map .readByte := rfl
@[simp] theorem afterReads_freeCount (bs : List Byte) (rest : List SrcAnswer) (s : State) : (afterReads bs rest s).freeCount = s.freeCount := rfl

/-! ### afterWrites -/

@[simp] theorem afterWrites_cache (bs : List Byte) (rest : List SnkAnswer) (s : State) : (afterWrites bs rest s).cache = s.cache := rfl
@[simp] theorem afterWrites_prev (bs : List Byte) (rest : List SnkAnswer) (s : State) : (afterWrites bs rest s).prev = s.prev := rfl
@[simp] theorem afterWrites_run (bs : List Byte) (rest : List SnkAnswer) (s : State) : (afterWrites bs rest s).run = s.run := rfl
@[simp] theorem afterWrites_pixTotal (bs : List Byte) (rest : List SnkAnswer) (s : State) : (afterWrites bs rest s).pixTotal = s.pixTotal := rfl
@[simp] theorem afterWrites_pixDone (bs : List Byte) (rest : List SnkAnswer) (s : State) : (afterWrites bs rest s).pixDone = s.pixDone := rfl
@[simp] theorem afterWrites_mode (bs : List Byte) (rest : List SnkAnswer) (s : State) : (afterWrites bs rest s).mode = s.mode := rfl
@[simp] theorem afterWrites_metaWidth (bs : List Byte) (rest : List SnkAnswer) (s : State) : (afterWrites bs rest s).metaWidth = s.metaWidth := rfl
@[simp] theorem afterWrites_metaHeight (bs : List Byte) (rest : List SnkAnswer) (s : State) : (afterWrites bs rest s).metaHeight = s.metaHeight := rfl
@[simp] theorem afterWrites_metaChannels (bs : List Byte) (rest : List SnkAnswer) (s : State) : (afterWrites bs rest s).metaChannels = s.metaChannels := rfl
@[simp] theorem afterWrites_metaColorspace (bs : List Byte) (rest : List SnkAnswer) (s : State) : (afterWrites bs rest s).metaColorspace = s.metaColorspace := rfl
@[simp] theorem afterWrites_phase (bs : List Byte) (rest : List SnkAnswer) (s : State) : (afterWrites bs rest s).phase = s.phase := rfl
@[simp] theorem afterWrites_errKind (bs : List Byte) (rest : List SnkAnswer) (s : State) : (afterWrites bs rest s).errKind = s.errKind := rfl
@[simp] theorem afterWrites_errByte (bs : List Byte) (rest : List SnkAnswer) (s : State) : (afterWrites bs rest s).errByte = s.errByte := rfl
@[simp] theorem afterWrites_rdBuf (bs : List Byte) (rest : List SnkAnswer) (s : State) : (afterWrites bs rest s).rdBuf = s.rdBuf := rfl
@[simp] theorem afterWrites_wrCnt (bs : List Byte) (rest : List SnkAnswer) (s : State) : (afterWrites bs rest s).wrCnt = s.wrCnt + bs.length := rfl
@[simp] theorem afterWrites_src (bs : List Byte) (rest : List SnkAnswer) (s : State) : (afterWrites bs rest s).src = s.src := rfl
@[simp] theorem afterWrites_snk (bs : List Byte) (rest : List SnkAnswer) (s : State) : (afterWrites bs rest s).snk = rest := rfl
@[simp] theorem afterWrites_agenda (bs : List Byte) (rest : List SnkAnswer) (s : State) : (afterWrites bs rest s).agenda = s.agenda := rfl
@[simp] theorem afterWrites_hist (bs : List Byte) (rest : List SnkAnswer) (s : State) : (afterWrites bs rest s).hist = s.hist ++ bs.map .wrote := rfl
@[simp] theorem afterWrites_freeCount (bs : List Byte) (rest : List SnkAnswer) (s : State) : (afterWrites bs rest s).freeCount = s.freeCount := rfl

/-! ### commit and finishPixel -/

@[simp] theorem commit_self (s : State) : commit s.prev s = s := by simp [commit]
theorem commit_eq (p : Pixel) (s : State) :
    commit p s = { s with cache := if p = s.prev then s.cache else cacheInsert s.cache p, prev := p } := by
  unfold commit
  split
  · next h => cases s; simp_all
  · rfl

theorem finishPixel_eq (p : Pixel) (run : BitVec 6) (s : State) :
    finishPixel p run s = { s with cache := if p = s.prev then s.cache else cacheInsert s.cache p, prev := p, run := run, pixDone := s.pixDone + 1, rdBuf := [], wrCnt := 0 } := by
  simp only [finishPixel, commit_eq, endStep]

@[simp] theorem finishPixel_cache (p : Pixel) (run : BitVec 6) (s : State) : (finishPixel p run s).cache = if p = s.prev then s.cache else cacheInsert s.cache p := by
  rw [finishPixel_eq]
@[simp] theorem finishPixel_prev (p : Pixel) (run : BitVec 6) (s : State) : (finishPixel p run s).prev = p := by
  rw [finishPixel_eq]
@[simp] theorem finishPixel_run (p : Pixel) (run : BitVec 6) (s : State) : (finishPixel p run s).run = run := by
  rw [finishPixel_eq]
@[simp] theorem finishPixel_pixTotal (p : Pixel) (run : BitVec 6) (s : State) : (finishPixel p run s).pixTotal = s.pixTotal := by
  rw [finishPixel_eq]
@[simp] theorem finishPixel_pixDone (p : Pixel) (run : BitVec 6) (s : State) : (finishPixel p run s).pixDone = s.pixDone + 1 := by
  rw [finishPixel_eq]
@[simp] theorem finishPixel_mode (p : Pixel) (run : BitVec 6) (s : State) : (finishPixel p run s).mode = s.mode := by
  rw [finishPixel_eq]
@[simp] theorem finishPixel_metaWidth (p : Pixel) (run : BitVec 6) (s : State) : (finishPixel p run s).metaWidth = s.metaWidth := by
  rw [finishPixel_eq]
@[simp] theorem finishPixel_metaHeight (p : Pixel) (run : BitVec 6) (s : State) : (finishPixel p run s).metaHeight = s.metaHeight := by
  rw [finishPixel_eq]
@[simp] theorem finishPixel_metaChannels (p : Pixel) (run : BitVec 6) (s : State) : (finishPixel p run s).metaChannels = s.metaChannels := by
  rw [finishPixel_eq]
@[simp] theorem finishPixel_metaColorspace (p : Pixel) (run : BitVec 6) (s : State) : (finishPixel p run s).metaColorspace = s.metaColorspace := by
  rw [finishPixel_eq]
@[simp] theorem finishPixel_phase (p : Pixel) (run : BitVec 6) (s : State) : (finishPixel p run s).phase = s.phase := by
  rw [finishPixel_eq]
@[simp] theorem finishPixel_errKind (p : Pixel) (run : BitVec 6) (s : State) : (finishPixel p run s).errKind = s.errKind := by
  rw [finishPixel_eq]
@[simp] theorem finishPixel_errByte (p : Pixel) (run : BitVec 6) (s : State) : (finishPixel p run s).errByte = s.errByte := by
  rw [finishPixel_eq]
@[simp] theorem finishPixel_rdBuf (p : Pixel) (run : BitVec 6) (s : State) : (finishPixel p run s).rdBuf = [] := by
  rw [finishPixel_eq]
@[simp] theorem finishPixel_wrCnt (p : Pixel) (run : BitVec 6) (s : State) : (finishPixel p run s).wrCnt = 0 := by
  rw [finishPixel_eq]
@[simp] theorem finishPixel_src (p : Pixel) (run : BitVec 6) (s : State) : (finishPixel p run s).src = s.src := by
  rw [finishPixel_eq]
@[simp] theorem finishPixel_snk (p : Pixel) (run : BitVec 6) (s : State) : (finishPixel p run s).snk = s.snk := by
  rw [finishPixel_eq]
@[simp] theorem finishPixel_agenda (p : Pixel) (run : BitVec 6) (s : State) : (finishPixel p run s).agenda = s.agenda := by
  rw [finishPixel_eq]
@[simp] theorem finishPixel_hist (p : Pixel) (run : BitVec 6) (s : State) : (finishPixel p run s).hist = s.hist := by
  rw [finishPixel_eq]
@[simp] theorem finishPixel_freeCount (p : Pixel) (run : BitVec 6) (s : State) : (finishPixel p run s).freeCount = s.freeCount := by
  rw [finishPixel_eq]

end Sys2Proof.Machine
end

