-- ==== Sys2Proof/Laws/Ops.lean ====
section
/-! SUPPORT. For each shared operation, what it can do, said once: the cache operations, a run of reads, a run of writes,
the end of a decode pixel step. Later proofs cite these and unfold nothing. -/

namespace Sys2Proof.Machine

/-! ## Flow -/

@[simp] theorem Flow.andThen_go (s : State) (k : State → Flow) : (Flow.go s).andThen k = k s := rfl
@[simp] theorem Flow.andThen_wait (s : State) (k : State → Flow) : (Flow.wait s).andThen k = .wait s := rfl
@[simp] theorem Flow.andThen_raise (e : CoreError) (s : State) (k : State → Flow) : (Flow.raise e s).andThen k = .raise e s := rfl
@[simp] theorem Flow.settle_go (s : State) (k : State → Result) : (Flow.go s).settle k = k s := rfl
@[simp] theorem Flow.settle_wait (s : State) (k : State → Result) : (Flow.wait s).settle k = .next s := rfl
@[simp] theorem Flow.settle_raise (e : CoreError) (s : State) (k : State → Result) : (Flow.raise e s).settle k = .next (errorEntry e s) := rfl

/-! ## The cache -/

@[simp] theorem lookup_cacheInsert_same (slots : Slots) (p : Pixel) : lookup (cacheInsert slots p) (pixelHash p) = p := by
  simp [lookup, cacheInsert]

theorem lookup_cacheInsert_other (slots : Slots) (p : Pixel) (i : BitVec 6) (h : i ≠ pixelHash p) :
    lookup (cacheInsert slots p) i = lookup slots i := by
  have hne : (pixelHash p).toNat ≠ i.toNat := fun e => h (BitVec.eq_of_toNat_eq e.symm)
  simp [lookup, cacheInsert, Vector.getElem_set_ne, hne]

@[simp] theorem lookup_replicate (p : Pixel) (i : BitVec 6) : lookup (Vector.replicate 64 p) i = p := by
  simp [lookup]

/-- Inserting a pixel where it already stands changes nothing (rule R140). -/
theorem cacheInsert_of_hit (slots : Slots) (p : Pixel) (h : lookup slots (pixelHash p) = p) : cacheInsert slots p = slots := by
  have h' : slots[(pixelHash p).toNat]'(pixelHash p).isLt = p := h
  unfold cacheInsert
  conv_lhs => arg 3; rw [← h']
  exact Vector.set_getElem_self ..

theorem cacheMatchOrReplace_cases (c : Slots) (p : Pixel) :
    (lookup c (pixelHash p) = p ∧ cacheMatchOrReplace c p = (some (pixelHash p), c)) ∨
    (lookup c (pixelHash p) ≠ p ∧ cacheMatchOrReplace c p = (none, cacheInsert c p)) := by
  by_cases h : lookup c (pixelHash p) = p
  · exact .inl ⟨h, by simp [cacheMatchOrReplace, h]⟩
  · exact .inr ⟨h, by simp [cacheMatchOrReplace, h]⟩

/-! ## Reads -/

@[simp] theorem afterReads_nil (s : State) : afterReads [] s.src s = s := by simp [afterReads]

theorem afterReads_cons (b : Byte) (bs : List Byte) (mid rest : List SrcAnswer) (s : State) :
    afterReads bs rest (afterReads [b] mid s) = afterReads (b :: bs) rest s := by simp [afterReads]

/-- The whole behaviour of a run of reads. -/
theorem readN_cases (n : Nat) (e : CoreError) (s : State) :
    (∃ bs rest, bs.length = n ∧ s.src = delivers bs ++ rest ∧ readN n e s = .go (afterReads bs rest s)) ∨
    (∃ bs, bs.length < n ∧ s.src = delivers bs ∧ readN n e s = .wait (afterReads bs [] s)) ∨
    (∃ bs rest, bs.length < n ∧ s.src = delivers bs ++ .eof :: rest ∧
      readN n e s = .raise e { afterReads bs rest s with hist := (afterReads bs rest s).hist ++ [.readEof] }) ∨
    (∃ bs rest, bs.length < n ∧ s.src = delivers bs ++ .ioErr :: rest ∧
      readN n e s = .raise .ioError { afterReads bs rest s with hist := (afterReads bs rest s).hist ++ [.readIoErr] }) := by
  induction n generalizing s with
  | zero => exact .inl ⟨[], s.src, rfl, rfl, by simp [readN]⟩
  | succ n ih =>
    match h : s.src with
    | [] => exact .inr (.inl ⟨[], by simp, rfl, by simp [readN, srcRead, afterReads, h]; cases s; simp_all⟩)
    | .eof :: rest => exact .inr (.inr (.inl ⟨[], rest, by simp, rfl, by simp [readN, srcRead, afterReads, h]⟩))
    | .ioErr :: rest => exact .inr (.inr (.inr ⟨[], rest, by simp, rfl, by simp [readN, srcRead, afterReads, h]⟩))
    | .byte b :: mid =>
      have hstep : readN (n + 1) e s = readN n e (afterReads [b] mid s) := by simp [readN, srcRead, afterReads, h]
      rw [hstep]
      rcases ih (afterReads [b] mid s) with ⟨bs, rest, hl, hs, hr⟩ | ⟨bs, hl, hs, hr⟩ | ⟨bs, rest, hl, hs, hr⟩ | ⟨bs, rest, hl, hs, hr⟩
      · exact .inl ⟨b :: bs, rest, by simp [hl], by simpa [delivers] using hs, by rw [hr, afterReads_cons]⟩
      · exact .inr (.inl ⟨b :: bs, by simpa using hl, by simpa [delivers] using hs, by rw [hr, afterReads_cons]⟩)
      · exact .inr (.inr (.inl ⟨b :: bs, rest, by simpa using hl, by simpa [delivers] using hs, by rw [hr, afterReads_cons]⟩))
      · exact .inr (.inr (.inr ⟨b :: bs, rest, by simpa using hl, by simpa [delivers] using hs, by rw [hr, afterReads_cons]⟩))

/-- Reads that the source answers with bytes. -/
theorem readN_go (bs : List Byte) (rest : List SrcAnswer) (e : CoreError) (s : State) (h : s.src = delivers bs ++ rest) :
    readN bs.length e s = .go (afterReads bs rest s) := by
  induction bs generalizing s with
  | nil => simp [readN, afterReads]; cases s; simp_all [delivers]
  | cons b bs ih =>
    have h' : s.src = .byte b :: (delivers bs ++ rest) := by simpa [delivers] using h
    have hstep : readN (bs.length + 1) e s = readN bs.length e (afterReads [b] (delivers bs ++ rest) s) := by
      simp [readN, srcRead, afterReads, h']
    rw [List.length_cons, hstep, ih _ rfl, afterReads_cons]

/-- Reads of which the source leaves one unanswered. -/
theorem readN_wait (n : Nat) (bs : List Byte) (e : CoreError) (s : State) (hn : bs.length < n) (h : s.src = delivers bs) :
    readN n e s = .wait (afterReads bs [] s) := by
  induction bs generalizing s n with
  | nil =>
    obtain ⟨n, rfl⟩ : ∃ m, n = m + 1 := ⟨n - 1, by simp at hn; omega⟩
    simp [readN, srcRead, afterReads, delivers] at *; simp [h]; cases s; simp_all
  | cons b bs ih =>
    obtain ⟨n, rfl⟩ : ∃ m, n = m + 1 := ⟨n - 1, by simp at hn; omega⟩
    have h' : s.src = .byte b :: delivers bs := by simpa [delivers] using h
    have hstep : readN (n + 1) e s = readN n e (afterReads [b] (delivers bs) s) := by simp [readN, srcRead, afterReads, h']
    rw [hstep, ih n _ (by simpa using hn) rfl, afterReads_cons]

/-- Reads of which the source answers one with `Eof`. -/
theorem readN_eof (n : Nat) (bs : List Byte) (rest : List SrcAnswer) (e : CoreError) (s : State) (hn : bs.length < n)
    (h : s.src = delivers bs ++ .eof :: rest) :
    readN n e s = .raise e { afterReads bs rest s with hist := (afterReads bs rest s).hist ++ [.readEof] } := by
  induction bs generalizing s n with
  | nil =>
    obtain ⟨n, rfl⟩ : ∃ m, n = m + 1 := ⟨n - 1, by simp at hn; omega⟩
    simp [readN, srcRead, afterReads, delivers] at *; simp [h]
  | cons b bs ih =>
    obtain ⟨n, rfl⟩ : ∃ m, n = m + 1 := ⟨n - 1, by simp at hn; omega⟩
    have h' : s.src = .byte b :: (delivers bs ++ .eof :: rest) := by simpa [delivers] using h
    have hstep : readN (n + 1) e s = readN n e (afterReads [b] (delivers bs ++ .eof :: rest) s) := by
      simp [readN, srcRead, afterReads, h']
    rw [hstep, ih n _ (by simpa using hn) rfl, afterReads_cons]

/-- Reads of which the source answers one with `IoErr`. -/
theorem readN_ioErr (n : Nat) (bs : List Byte) (rest : List SrcAnswer) (e : CoreError) (s : State) (hn : bs.length < n)
    (h : s.src = delivers bs ++ .ioErr :: rest) :
    readN n e s = .raise .ioError { afterReads bs rest s with hist := (afterReads bs rest s).hist ++ [.readIoErr] } := by
  induction bs generalizing s n with
  | nil =>
    obtain ⟨n, rfl⟩ : ∃ m, n = m + 1 := ⟨n - 1, by simp at hn; omega⟩
    simp [readN, srcRead, afterReads, delivers] at *; simp [h]
  | cons b bs ih =>
    obtain ⟨n, rfl⟩ : ∃ m, n = m + 1 := ⟨n - 1, by simp at hn; omega⟩
    have h' : s.src = .byte b :: (delivers bs ++ .ioErr :: rest) := by simpa [delivers] using h
    have hstep : readN (n + 1) e s = readN n e (afterReads [b] (delivers bs ++ .ioErr :: rest) s) := by
      simp [readN, srcRead, afterReads, h']
    rw [hstep, ih n _ (by simpa using hn) rfl, afterReads_cons]

/-- Reading `m + n` bytes is reading `m`, then `n`. -/
theorem readN_add (m n : Nat) (e : CoreError) (s : State) : readN (m + n) e s = (readN m e s).andThen (readN n e) := by
  induction m generalizing s with
  | zero => simp [readN]
  | succ m ih =>
    rw [Nat.add_right_comm, readN, readN]
    cases srcRead e s with
    | go t => exact ih t
    | wait t => rfl
    | raise k t => rfl

/-- A step that has its bytes already reads nothing. -/
@[simp] theorem fill_enough (n : Nat) (e : CoreError) (s : State) (h : n ≤ s.rdBuf.length) : fill n e s = .go s := by
  simp [fill, Nat.sub_eq_zero_of_le h, readN]

/-- A fill that the source answers with the bytes that lack. -/
theorem fill_go (n : Nat) (bs : List Byte) (rest : List SrcAnswer) (e : CoreError) (s : State)
    (hn : s.rdBuf.length + bs.length = n) (h : s.src = delivers bs ++ rest) : fill n e s = .go (afterReads bs rest s) := by
  have : n - s.rdBuf.length = bs.length := by omega
  rw [fill, this, readN_go bs rest e s h]

/-- A fill of which the source leaves one byte unanswered. -/
theorem fill_wait (n : Nat) (bs : List Byte) (e : CoreError) (s : State) (hn : s.rdBuf.length + bs.length < n)
    (h : s.src = delivers bs) : fill n e s = .wait (afterReads bs [] s) := readN_wait _ bs e s (by omega) h

/-- A fill cut short by `Eof`. -/
theorem fill_eof (n : Nat) (bs : List Byte) (rest : List SrcAnswer) (e : CoreError) (s : State)
    (hn : s.rdBuf.length + bs.length < n) (h : s.src = delivers bs ++ .eof :: rest) :
    fill n e s = .raise e { afterReads bs rest s with hist := (afterReads bs rest s).hist ++ [.readEof] } :=
  readN_eof _ bs rest e s (by omega) h

/-- A fill cut short by `IoErr`. -/
theorem fill_ioErr (n : Nat) (bs : List Byte) (rest : List SrcAnswer) (e : CoreError) (s : State)
    (hn : s.rdBuf.length + bs.length < n) (h : s.src = delivers bs ++ .ioErr :: rest) :
    fill n e s = .raise .ioError { afterReads bs rest s with hist := (afterReads bs rest s).hist ++ [.readIoErr] } :=
  readN_ioErr _ bs rest e s (by omega) h

/-- Two fills in a row with the same error are one. -/
theorem fill_fill (m n : Nat) (e : CoreError) (s : State) (h : m ≤ n) : (fill m e s).andThen (fill n e) = fill n e s := by
  by_cases hm : m ≤ s.rdBuf.length
  · rw [fill_enough m e s hm, Flow.andThen_go]
  · rcases readN_cases (m - s.rdBuf.length) e s with ⟨bs, rest, hl, hs, hr⟩ | ⟨bs, hl, hs, hr⟩ | ⟨bs, rest, hl, hs, hr⟩ | ⟨bs, rest, hl, hs, hr⟩
    · obtain ⟨k, hk⟩ : ∃ k, n - s.rdBuf.length = bs.length + k := ⟨n - s.rdBuf.length - bs.length, by omega⟩
      have hk' : n - (afterReads bs rest s).rdBuf.length = k := by simp; omega
      rw [fill, hr, Flow.andThen_go, fill, fill, hk, hk', readN_add, readN_go bs rest e s hs, Flow.andThen_go]
    · rw [fill, hr, Flow.andThen_wait, fill_wait n bs e s (by omega) hs]
    · rw [fill, hr, Flow.andThen_raise, fill_eof n bs rest e s (by omega) hs]
    · rw [fill, hr, Flow.andThen_raise, fill_ioErr n bs rest e s (by omega) hs]

/-! ## Writes -/

@[simp] theorem afterWrites_nil (s : State) : afterWrites [] s.snk s = s := by simp [afterWrites]

theorem afterWrites_cons (b : Byte) (bs : List Byte) (mid rest : List SnkAnswer) (s : State) :
    afterWrites bs rest (afterWrites [b] mid s) = afterWrites (b :: bs) rest s := by
  simp [afterWrites]; omega

/-- The whole behaviour of a run of writes. -/
theorem putAll_cases (out : List Byte) (s : State) :
    (∃ rest, s.snk = oks out.length ++ rest ∧ putAll out s = .go (afterWrites out rest s)) ∨
    (∃ k, k < out.length ∧ s.snk = oks k ∧ putAll out s = .wait (afterWrites (out.take k) [] s)) ∨
    (∃ k rest, ∃ h : k < out.length, s.snk = oks k ++ .ioErr :: rest ∧
      putAll out s = .raise .ioError
        { afterWrites (out.take k) rest s with hist := (afterWrites (out.take k) rest s).hist ++ [.writeIoErr out[k]] }) := by
  induction out generalizing s with
  | nil => exact .inl ⟨s.snk, by simp [oks], by simp [putAll]⟩
  | cons b out ih =>
    match h : s.snk with
    | [] => exact .inr (.inl ⟨0, by simp, by simp [oks], by simp [putAll, snkWrite, afterWrites, h]; cases s; simp_all⟩)
    | .ioErr :: rest =>
      exact .inr (.inr ⟨0, rest, by simp, by simp [oks], by simp [putAll, snkWrite, afterWrites, h]⟩)
    | .ok :: mid =>
      have hstep : putAll (b :: out) s = putAll out (afterWrites [b] mid s) := by simp [putAll, snkWrite, afterWrites, h]
      rw [hstep]
      rcases ih (afterWrites [b] mid s) with ⟨rest, hs, hr⟩ | ⟨k, hk, hs, hr⟩ | ⟨k, rest, hk, hs, hr⟩
      · refine .inl ⟨rest, ?_, by rw [hr, afterWrites_cons]⟩
        simpa [oks, List.replicate_succ] using hs
      · refine .inr (.inl ⟨k + 1, by simpa using hk, ?_, by rw [hr, afterWrites_cons, List.take_succ_cons]⟩)
        simpa [oks, List.replicate_succ] using hs
      · refine .inr (.inr ⟨k + 1, rest, by simpa using hk, ?_, ?_⟩)
        · simpa [oks, List.replicate_succ] using hs
        · rw [hr, afterWrites_cons, List.take_succ_cons]; simp

/-- Writes that the sink accepts. -/
theorem putAll_go (out : List Byte) (rest : List SnkAnswer) (s : State) (h : s.snk = oks out.length ++ rest) :
    putAll out s = .go (afterWrites out rest s) := by
  induction out generalizing s with
  | nil => simp [putAll, afterWrites]; cases s; simp_all [oks]
  | cons b out ih =>
    have h' : s.snk = .ok :: (oks out.length ++ rest) := by simpa [oks, List.replicate_succ] using h
    have hstep : putAll (b :: out) s = putAll out (afterWrites [b] (oks out.length ++ rest) s) := by
      simp [putAll, snkWrite, afterWrites, h']
    rw [hstep, ih _ rfl, afterWrites_cons]

/-- Writes of which the sink leaves one unanswered. -/
theorem putAll_wait (out : List Byte) (k : Nat) (s : State) (hk : k < out.length) (h : s.snk = oks k) :
    putAll out s = .wait (afterWrites (out.take k) [] s) := by
  induction k generalizing s out with
  | zero =>
    match out, hk with
    | b :: out, _ => simp [putAll, snkWrite, afterWrites, oks] at *; simp [h]; cases s; simp_all
  | succ k ih =>
    match out, hk with
    | b :: out, hk =>
      have h' : s.snk = .ok :: oks k := by simpa [oks, List.replicate_succ] using h
      have hstep : putAll (b :: out) s = putAll out (afterWrites [b] (oks k) s) := by
        simp [putAll, snkWrite, afterWrites, h']
      rw [hstep, ih out _ (by simpa using hk) rfl, afterWrites_cons, List.take_succ_cons]

/-- Writes of which the sink answers one with `IoErr`. -/
theorem putAll_ioErr (out : List Byte) (k : Nat) (rest : List SnkAnswer) (s : State) (hk : k < out.length)
    (h : s.snk = oks k ++ .ioErr :: rest) :
    putAll out s = .raise .ioError
      { afterWrites (out.take k) rest s with hist := (afterWrites (out.take k) rest s).hist ++ [.writeIoErr out[k]] } := by
  induction k generalizing s out with
  | zero =>
    match out, hk with
    | b :: out, _ => simp [putAll, snkWrite, afterWrites, oks] at *; simp [h]
  | succ k ih =>
    match out, hk with
    | b :: out, hk =>
      have h' : s.snk = .ok :: (oks k ++ .ioErr :: rest) := by simpa [oks, List.replicate_succ] using h
      have hstep : putAll (b :: out) s = putAll out (afterWrites [b] (oks k ++ .ioErr :: rest) s) := by
        simp [putAll, snkWrite, afterWrites, h']
      rw [hstep, ih out _ (by simpa using hk) rfl, afterWrites_cons, List.take_succ_cons]; simp

/-- The writes still to be made by a step are accepted. -/
theorem drain_go (out : List Byte) (rest : List SnkAnswer) (s : State) (h : s.snk = oks (out.drop s.wrCnt).length ++ rest) :
    drain out s = .go (afterWrites (out.drop s.wrCnt) rest s) := putAll_go _ rest s h

/-- Of the writes still to be made by a step, the sink leaves one unanswered. -/
theorem drain_wait (out : List Byte) (k : Nat) (s : State) (hk : k < (out.drop s.wrCnt).length) (h : s.snk = oks k) :
    drain out s = .wait (afterWrites ((out.drop s.wrCnt).take k) [] s) := putAll_wait _ k s hk h

/-- Of the writes still to be made by a step, the sink answers one with `IoErr`. -/
theorem drain_ioErr (out : List Byte) (k : Nat) (rest : List SnkAnswer) (s : State) (hk : k < (out.drop s.wrCnt).length)
    (h : s.snk = oks k ++ .ioErr :: rest) :
    drain out s = .raise .ioError { afterWrites ((out.drop s.wrCnt).take k) rest s with
      hist := (afterWrites ((out.drop s.wrCnt).take k) rest s).hist ++ [.writeIoErr (out.drop s.wrCnt)[k]] } :=
  putAll_ioErr _ k rest s hk h

/-! ## The end of a decode pixel step -/

/-- A completed decode pixel step, whatever pixel it resolved to. -/
theorem completePixel_go (p : Pixel) (run : BitVec 6) (rest : List SnkAnswer) (s : State)
    (h : s.snk = oks ((pixelBytes s.metaChannels p).drop s.wrCnt).length ++ rest) :
    completePixel p run s = .next (afterPixel p run ((pixelBytes s.metaChannels p).drop s.wrCnt) rest s) := by
  rw [completePixel, drain_go _ rest s h, Flow.settle_go, finishPixel_eq]
  rfl

/-- Every decode pixel step from the resolved pixel on completes, waits at the sink or reports `IoError`. -/
theorem completePixel_cases (p : Pixel) (run : BitVec 6) (s : State) :
    (∃ rest, s.snk = oks ((pixelBytes s.metaChannels p).drop s.wrCnt).length ++ rest ∧
      completePixel p run s = .next (afterPixel p run ((pixelBytes s.metaChannels p).drop s.wrCnt) rest s)) ∨
    (∃ k, k < ((pixelBytes s.metaChannels p).drop s.wrCnt).length ∧ s.snk = oks k ∧
      completePixel p run s = .next (afterWrites (((pixelBytes s.metaChannels p).drop s.wrCnt).take k) [] s)) ∨
    (∃ k rest t, k < ((pixelBytes s.metaChannels p).drop s.wrCnt).length ∧ s.snk = oks k ++ .ioErr :: rest ∧
      drain (pixelBytes s.metaChannels p) s = .raise .ioError t ∧ completePixel p run s = .next (errorEntry .ioError t)) := by
  rcases putAll_cases ((pixelBytes s.metaChannels p).drop s.wrCnt) s with ⟨rest, hs, _⟩ | ⟨k, hk, hs, hr⟩ | ⟨k, rest, hk, hs, hr⟩
  · exact .inl ⟨rest, hs, completePixel_go p run rest s hs⟩
  · exact .inr (.inl ⟨k, hk, hs, by rw [completePixel, drain, hr, Flow.settle_wait]⟩)
  · exact .inr (.inr ⟨k, rest, _, hk, hs, by rw [drain, hr], by rw [completePixel, drain, hr, Flow.settle_raise]⟩)

/-- What every chunk does is one completed pixel step of the pixel it resolves to. -/
theorem exec_eq (i : Instr) (s : State) (h : i.wellFormed = true) :
    exec i s = completePixel (resolved s i) (match i with | .run count => count - 1 | _ => s.run) s := by
  cases i with
  | run count => simp only [Instr.wellFormed] at h; simp [exec, execRun, h, resolved]
  | _ => rfl

end Sys2Proof.Machine
end

