-- ==== Sys2Proof/Laws/PerInstr.lean ====
section
/-! SUPPORT. A law of the instruction as syntax, one lemma per constructor: the bytes of a chunk are as many as the
kind's length (rule R82), and the leading byte says so (rule R90). -/

namespace Sys2Proof.Laws.EncodeLength

/-- The bytes of `i`, where it has any, are `i.length` many and their first one announces that length. -/
def Statement (i : Instr) : Prop :=
  ∀ bs, encode i = some bs → bs.length = i.length ∧ chunkLen (bs.headD 0) = i.length

theorem rgb (r g b : Byte) : Statement (.rgb r g b) := by
  rintro bs ⟨⟩; exact ⟨rfl, by simp [chunkLen, Instr.length]⟩

theorem rgba (r g b a : Byte) : Statement (.rgba r g b a) := by
  rintro bs ⟨⟩; exact ⟨rfl, by simp [chunkLen, Instr.length]⟩

theorem index (idx : BitVec 6) : Statement (.index idx) := by
  rintro bs ⟨⟩; exact ⟨rfl, by revert idx; decide⟩

theorem color (dr dg db : BitVec 2) : Statement (.color dr dg db) := by
  rintro bs ⟨⟩; exact ⟨rfl, by revert dr dg db; decide⟩

theorem luma (dg : BitVec 6) (drg dbg : BitVec 4) : Statement (.luma dg drg dbg) := by
  rintro bs ⟨⟩; exact ⟨rfl, by revert dg; simp only [List.headD_cons, Instr.length]; decide⟩

theorem run (count : BitVec 6) : Statement (.run count) := by
  intro bs h
  simp only [encode] at h
  split at h
  · next hc => cases h; exact ⟨rfl, by revert hc; revert count; decide⟩
  · cases h

end Sys2Proof.Laws.EncodeLength
end

