-- ==== Sys2Proof/Laws/PixelOps.lean ====
section
/-! SUPPORT. When each check of the difference model answers, and what (rules R117, R119, R120). -/

namespace Sys2Proof.Machine

theorem colorOf_eq_some (vr vg vb : Byte) (d : DiffKind) : colorOf vr vg vb = some d ↔
    (add8 vr 2 ≤ 3 ∧ add8 vg 2 ≤ 3 ∧ add8 vb 2 ≤ 3) ∧
    d = .color ((add8 vr 2).setWidth 2) ((add8 vg 2).setWidth 2) ((add8 vb 2).setWidth 2) := by
  unfold colorOf
  by_cases h : add8 vr 2 ≤ 3 ∧ add8 vg 2 ≤ 3 ∧ add8 vb 2 ≤ 3
  · rw [if_pos h, Option.some.injEq, eq_comm]; exact ⟨fun e => ⟨h, e⟩, And.right⟩
  · rw [if_neg h]; exact ⟨fun e => (by cases e), fun e => absurd e.1 h⟩

theorem colorOf_eq_none (vr vg vb : Byte) : colorOf vr vg vb = none ↔ ¬(add8 vr 2 ≤ 3 ∧ add8 vg 2 ≤ 3 ∧ add8 vb 2 ≤ 3) := by
  unfold colorOf
  by_cases h : add8 vr 2 ≤ 3 ∧ add8 vg 2 ≤ 3 ∧ add8 vb 2 ≤ 3
  · rw [if_pos h]; exact ⟨fun e => (by cases e), fun e => absurd h e⟩
  · rw [if_neg h]; exact ⟨fun _ => h, fun _ => rfl⟩

theorem lumaOf_eq_some (vr vg vb : Byte) (d : DiffKind) : lumaOf vr vg vb = some d ↔
    (add8 vg 32 ≤ 63 ∧ add8 (sub8 vr vg) 8 ≤ 15 ∧ add8 (sub8 vb vg) 8 ≤ 15) ∧
    d = .luma ((add8 vg 32).setWidth 6) ((add8 (sub8 vr vg) 8).setWidth 4) ((add8 (sub8 vb vg) 8).setWidth 4) := by
  unfold lumaOf
  by_cases h : add8 vg 32 ≤ 63 ∧ add8 (sub8 vr vg) 8 ≤ 15 ∧ add8 (sub8 vb vg) 8 ≤ 15
  · rw [if_pos h, Option.some.injEq, eq_comm]; exact ⟨fun e => ⟨h, e⟩, And.right⟩
  · rw [if_neg h]; exact ⟨fun e => (by cases e), fun e => absurd e.1 h⟩

/-- What `diff` can answer: with equal alpha, what the small-color check gives, else what the luma check gives. -/
theorem diff_eq_some (c r : Pixel) (d : DiffKind) : diff c r = some d ↔ c.a = r.a ∧
    (colorOf (sub8 c.r r.r) (sub8 c.g r.g) (sub8 c.b r.b) = some d ∨
      (colorOf (sub8 c.r r.r) (sub8 c.g r.g) (sub8 c.b r.b) = none ∧
        lumaOf (sub8 c.r r.r) (sub8 c.g r.g) (sub8 c.b r.b) = some d)) := by
  unfold diff
  by_cases ha : c.a = r.a
  · rw [if_neg (not_not_intro ha)]
    cases hc : colorOf (sub8 c.r r.r) (sub8 c.g r.g) (sub8 c.b r.b) <;> simp [hc, ha]
  · rw [if_pos ha]; exact ⟨fun e => (by cases e), fun e => absurd e.1 ha⟩

end Sys2Proof.Machine
end

