-- ==== Sys2Proof/Tests/Slice0.lean ====
section
/-! SUPPORT. Tests. Every expected value is one that spec/95_test_vectors.md lists (its number stands in the docstring) or
is written out by hand from the named rule. First the smoke tests, then the words, then single steps, then for each statement
with hypotheses a concrete input that meets them all together. -/

namespace Sys2Proof.Tests

open Sys2Proof Sys2Proof.Machine

/-! ## Well-formedness and the words -/

/-- R81: the one check. A count of 0 or 63 is refused, 1 and 62 pass. -/
theorem test_wellFormed_run : Instr.wellFormed (.run 0) = false ∧ Instr.wellFormed (.run 63) = false ∧
    Instr.wellFormed (.run 1) = true ∧ Instr.wellFormed (.run 62) = true := by decide

/-- R236 (a): an ill-formed Op has no bytes. -/
theorem test_illFormed_has_no_bytes : encode (.run 0) = none ∧ encode (.run 63) = none := by decide

/-- T-O1 to T-O3: format `00 idx`. -/
theorem test_word_index : decode [0x36#8] = .chunk (.index 54) [] ∧ decode [0x3F#8, 1] = .chunk (.index 63) [1] ∧
    encode (.index 54) = some [0x36#8] := by decide

/-- T-O4 to T-O6: format `01 dr dg db`. -/
theorem test_word_color : decode [0x74#8] = .chunk (.color 3 1 0) [] ∧ decode [0x40#8] = .chunk (.color 0 0 0) [] ∧
    encode (.color 3 1 0) = some [0x74#8] := by decide

/-- T-O8, T-O9, T-O9b: format `10 dg`, `drg dbg`. -/
theorem test_word_luma : decode [0xA5#8, 0xD1#8] = .chunk (.luma 37 13 1) [] ∧
    decode [0xA0#8, 0xFE#8] = .chunk (.luma 32 15 14) [] ∧ encode (.luma 63 15 15) = some [0xBF#8, 0xFF#8] := by decide

/-- T-O12, T-O14. -/
theorem test_word_rgb : decode [0xFE#8, 0xC8#8, 0x64#8, 0x64#8] = .chunk (.rgb 200 100 100) [] ∧
    encode (.rgb 0 0 0) = some [0xFE#8, 0, 0, 0] := by decide

/-- T-O13, T-O15. -/
theorem test_word_rgba : decode [0xFF#8, 0xFF#8, 0xFE#8, 0xFD#8, 0xFC#8] = .chunk (.rgba 255 254 253 252) [] ∧
    encode (.rgba 1 2 3 4) = some [0xFF#8, 1, 2, 3, 4] := by decide

/-- T-O10, T-O11, T-O11b. -/
theorem test_word_run : decode [0xC0#8] = .chunk (.run 1) [] ∧ decode [0xFD#8] = .chunk (.run 62) [] ∧
    encode (.run 3) = some [0xC2#8] := by decide

/-- T-O16: the kinds at both ends of each range of leading bytes. -/
theorem test_kind_ends : kindOf 0x00 = .index ∧ kindOf 0x3F = .index ∧ kindOf 0x40 = .color ∧ kindOf 0x7F = .color ∧
    kindOf 0x80 = .luma ∧ kindOf 0xBF = .luma ∧ kindOf 0xC0 = .run ∧ kindOf 0xFD = .run ∧ kindOf 0xFE = .rgb ∧
    kindOf 0xFF = .rgba := by decide

/-- T-O14 with the table's numbering: bit 0 is the least significant bit of the first byte. -/
theorem test_tableWord : decodeTableWord 32 0x6464C8FE = some (.rgb 200 100 100) ∧
    decodeTableWord 16 0xD1A5 = some (.luma 37 13 1) := by decide

/-! ## Pure functions -/

/-- T-H2, T-H3, T-H5, T-H8. -/
theorem test_hash : pixelHash ⟨0, 0, 0, 255⟩ = 53 ∧ pixelHash ⟨101, 102, 103, 104⟩ = 54 ∧ pixelHash ⟨255, 255, 255, 255⟩ = 38 ∧
    pixelHash ⟨0, 1, 0, 0⟩ = 5 ∧ pixelHash ⟨0, 0, 1, 0⟩ = 7 ∧ pixelHash ⟨0, 0, 0, 1⟩ = 11 := by decide

/-- T-D1, T-D3, T-D6, T-D7, T-D9, T-D15, T-D17, T-D20. -/
theorem test_diff :
    diff ⟨101, 101, 101, 255⟩ ⟨100, 100, 100, 255⟩ = some (.color 3 3 3) ∧
    diff ⟨97, 100, 100, 255⟩ ⟨100, 100, 100, 255⟩ = some (.luma 32 5 8) ∧
    diff ⟨99, 101, 98, 255⟩ ⟨100, 100, 100, 255⟩ = some (.color 1 3 0) ∧
    diff ⟨100, 100, 100, 254⟩ ⟨100, 100, 100, 255⟩ = none ∧
    diff ⟨110, 105, 98, 255⟩ ⟨100, 100, 100, 255⟩ = some (.luma 37 13 1) ∧
    diff ⟨108, 100, 100, 255⟩ ⟨100, 100, 100, 255⟩ = none ∧
    diff ⟨138, 131, 138, 255⟩ ⟨100, 100, 100, 255⟩ = some (.luma 63 15 15) ∧
    diff ⟨255, 255, 255, 255⟩ ⟨0, 0, 0, 255⟩ = some (.color 1 1 1) := by decide

/-- T-F4, T-F5, T-F6. -/
theorem test_fromDiff : fromDiff (.color 0 3 1) ⟨0, 255, 128, 200⟩ = ⟨254, 0, 127, 200⟩ ∧
    fromDiff (.luma 0 0 0) ⟨0, 0, 0, 9⟩ = ⟨216, 224, 216, 9⟩ ∧
    fromDiff (.luma 63 15 15) ⟨0, 0, 0, 9⟩ = ⟨38, 31, 38, 9⟩ := by decide

/-! ## Single steps -/

/-- The state a step answers. -/
def nextOf (r : Result) : State :=
  match r with
  | .next s => s
  | .fault _ => State.reset
  | .refused _ => State.reset

/-- In the body of a call on a 2 x 1 image, nothing done yet, with what the ports will answer. -/
def bodyOf (m : Mode) (channels : Byte) (bytes : List Byte) (answers : Nat) : State :=
  { State.reset with
    mode := m, phase := .body, metaWidth := 2, metaHeight := 1, metaChannels := channels, pixTotal := 2
    src := delivers bytes, snk := oks answers }

/-- In phase `HEADER` with the given answers of the source. -/
def headerOf (m : Mode) (answers : List SrcAnswer) : State := { State.reset with mode := m, phase := .header, src := answers }

/-- T-X8, first chunk: RGB 100,100,100 keeps alpha and fills slot 17. -/
theorem test_rgb : let t := nextOf (step (bodyOf .dec 4 [0xFE, 100, 100, 100] 4))
    t.prev = ⟨100, 100, 100, 255⟩ ∧ lookup t.cache 17 = ⟨100, 100, 100, 255⟩ ∧ sinkBytes t.hist = [0x64, 0x64, 0x64, 0xFF] ∧
    t.pixDone = 1 := by decide

/-- T-X21: a literal equal to `prev` commits nothing, slot 53 stays as it was. -/
theorem test_rgb_no_commit : let t := nextOf (step (bodyOf .dec 4 [0xFE, 0, 0, 0] 4))
    lookup t.cache 53 = ⟨0, 0, 0, 0⟩ ∧ sinkBytes t.hist = [0, 0, 0, 0xFF] := by decide

/-- T-X7: RGBA in a 3-channel image; alpha is tracked, never output. -/
theorem test_rgba_three_channels : let t := nextOf (step (bodyOf .dec 3 [0xFF, 1, 2, 3, 4] 3))
    t.prev = ⟨1, 2, 3, 4⟩ ∧ lookup t.cache 14 = ⟨1, 2, 3, 4⟩ ∧ sinkBytes t.hist = [1, 2, 3] := by decide

/-- T-X1 (S3): INDEX 54 gives the pixel that stands in slot 54. -/
theorem test_index : let t := nextOf (step { bodyOf .dec 4 [0x36] 4 with
      cache := cacheInsert State.reset.cache ⟨101, 102, 103, 104⟩, prev := ⟨9, 9, 9, 9⟩ })
    t.prev = ⟨101, 102, 103, 104⟩ ∧ sinkBytes t.hist = [0x65, 0x66, 0x67, 0x68] := by decide

/-- T-X3: INDEX of an untouched slot commits (0,0,0,0) into slot 0 and evicts what stood there. -/
theorem test_index_evicts : let t := nextOf (step { bodyOf .dec 4 [0x05] 4 with
      cache := cacheInsert State.reset.cache ⟨64, 0, 0, 0⟩, prev := ⟨64, 0, 0, 0⟩ })
    t.prev = ⟨0, 0, 0, 0⟩ ∧ lookup t.cache 0 = ⟨0, 0, 0, 0⟩ := by decide

/-- T-X19: COLOR wraps below zero. -/
theorem test_color_wraps : let t := nextOf (step (bodyOf .dec 4 [0x40] 4))
    t.prev = ⟨254, 254, 254, 255⟩ ∧ sinkBytes t.hist = [0xFE, 0xFE, 0xFE, 0xFF] := by decide

/-- T-X8, second chunk: LUMA 37,13,1, slot 58. -/
theorem test_luma : let t := nextOf (step { bodyOf .dec 4 [0xA5, 0xD1] 4 with prev := ⟨100, 100, 100, 255⟩ })
    t.prev = ⟨110, 105, 98, 255⟩ ∧ lookup t.cache 58 = ⟨110, 105, 98, 255⟩ ∧
    sinkBytes t.hist = [0x6E, 0x69, 0x62, 0xFF] := by decide

/-- T-X5: RUN 62 outputs `prev` once and leaves 61 continuations; no slot is written. -/
theorem test_run : let t := nextOf (step (bodyOf .dec 4 [0xFD] 4))
    t.run = 61 ∧ t.prev = ⟨0, 0, 0, 255⟩ ∧ t.cache = State.reset.cache ∧ sinkBytes t.hist = [0, 0, 0, 0xFF] := by decide

/-- R236 (a), decision D14: a count that is no count is refused by name. -/
theorem test_run_illFormed : exec (.run 0) State.reset = .refused .illFormedOp ∧
    exec (.run 63) State.reset = .refused .illFormedOp := ⟨rfl, rfl⟩

/-- T-X10: LUMA lacks its second byte. -/
theorem test_truncated_chunk : let t := nextOf (step { bodyOf .dec 4 [] 4 with src := [.byte 0xA5, .eof] })
    t.phase = .error ∧ t.errKind = .unexpectedEof ∧ t.errByte = 0 := by decide

/-- T-E3: a pixel that stands in its slot is emitted as INDEX 17, although it is a -1 delta. -/
theorem test_enc_index_first : let t := nextOf (step { bodyOf .enc 4 [100, 100, 100, 255] 1 with
      cache := cacheInsert State.reset.cache ⟨100, 100, 100, 255⟩, prev := ⟨101, 101, 101, 255⟩ })
    sinkBytes t.hist = [0x11] ∧ t.prev = ⟨100, 100, 100, 255⟩ := by decide

/-- T-E5: the 62nd repetition emits the byte FD and clears the counter. -/
theorem test_enc_saturates : let t := nextOf (step { bodyOf .enc 4 [0, 0, 0, 255] 1 with run := 61 })
    sinkBytes t.hist = [0xFD] ∧ t.run = 0 := by decide

/-- T-E2: a run of 3 is broken by LUMA 37,13,1. -/
theorem test_enc_breaks_run : let t := nextOf (step { bodyOf .enc 4 [110, 105, 98, 255] 3 with
      prev := ⟨100, 100, 100, 255⟩, run := 3 })
    sinkBytes t.hist = [0xC2, 0xA5, 0xD1] ∧ t.run = 0 ∧ lookup t.cache 58 = ⟨110, 105, 98, 255⟩ := by decide

/-- T-E14: a changed alpha is emitted as RGBA. -/
theorem test_enc_rgba : sinkBytes (nextOf (step { bodyOf .enc 4 [100, 100, 100, 254] 5 with
      prev := ⟨100, 100, 100, 255⟩ })).hist = [0xFF, 0x64, 0x64, 0x64, 0xFE] := by decide

/-- T-G1: the magic `qqqq` is refused after 4 bytes. -/
theorem test_dec_magic : let t := nextOf (step (headerOf .dec (delivers [0x71, 0x71, 0x71, 0x71, 0])))
    t.errKind = .invalidHeader ∧ t.src = delivers [0] := by decide

/-- T-S2: after reset an encode call ends in `InvalidHeader` and writes nothing. -/
theorem test_enc_after_reset : let t := nextOf (step (applyEvent .startEnc State.reset))
    t.phase = .error ∧ t.errKind = .invalidHeader ∧ t.hist = [] := by decide

/-- T-S1: what a host reads after hardware reset. -/
theorem test_reset_reads : State.reset.hostRead .phase = 0 ∧ State.reset.hostRead .errKind = 0 ∧
    State.reset.hostRead .metaChannels = 0 := by decide

/-- T-E19: after the refusal of colorspace 2 a host reads `PHASE` 6, `ERR_KIND` 2, `ERR_BYTE` 2, and `error` is high. -/
theorem test_error_reads : let t := nextOf (step { headerOf .enc [] with metaChannels := 4, metaColorspace := 2 })
    t.hostRead .phase = 6 ∧ t.hostRead .errKind = 2 ∧ t.hostRead .errByte = 2 ∧ t.errorOut = true ∧ t.doneOut = false := by
  decide

/-- Log entry 9: an encode call whose `run` is 63, which no legal state holds, stops by name where it would extend or emit it. -/
theorem test_run_63_faults :
    step { bodyOf .enc 4 [0, 0, 0, 255] 9 with run := 63 } = .fault .runCounterOutOfRange ∧
    step { bodyOf .enc 4 [1, 1, 1, 255] 9 with run := 63 } = .fault .runCounterOutOfRange ∧
    step { State.reset with phase := .trailer, run := 63, snk := oks 9 } = .fault .runCounterOutOfRange := ⟨rfl, rfl, rfl⟩

/-- A word placed by `withFetchWord` is the next chunk: RGBA 1,2,3,4 (T-O15) as the first instruction after reset. -/
theorem test_withFetchWord : let t := nextOf (step (State.reset.withFetchWord 40 0x04030201FF))
    t.prev = ⟨1, 2, 3, 4⟩ ∧ sinkBytes t.hist = [1, 2, 3, 4] ∧ t.pixDone = 1 := by decide

/-! ## Witnesses

One theorem for each statement with hypotheses: an input that meets them all, for each clause, at an end of its range. -/

theorem test_wit_DecodeAndEncodeAgree : encode (.run 62) = some [0xFD#8] ∧ decode [0xFD#8, 7] = .chunk (.run 62) [7] := by decide

theorem test_wit_ChunkLength : ([] : List Byte).length + 1 < chunkLen 0x80 ∧ chunkLen 0x80 ≤ [0#8].length + 1 ∧
    [1#8, 2].length + 1 < chunkLen 0xFE ∧ chunkLen 0xFE ≤ [1#8, 2, 3].length + 1 ∧
    [1#8, 2, 3].length + 1 < chunkLen 0xFF ∧ chunkLen 0xFF ≤ [1#8, 2, 3, 4].length + 1 := by decide

theorem test_wit_OneByteChunksDecode : decode [0x3F#8] = .chunk (.index 63) [] ∧ decode [0x40#8] = .chunk (.color 0 0 0) [] ∧
    decode [0x7F#8] = .chunk (.color 3 3 3) [] ∧ decode [0xC0#8] = .chunk (.run 1) [] ∧
    decode [0xFD#8] = .chunk (.run 62) [] := by decide

theorem test_wit_MultiByteChunksDecode : decode [0x80#8, 0] = .chunk (.luma 0 0 0) [] ∧
    decode [0xBF#8, 0xFF] = .chunk (.luma 63 15 15) [] := by decide

theorem test_wit_OpEncodeBytes : encode (.run 1) = some [0xC0#8] ∧ encode (.run 62) = some [0xFD#8] := by decide

theorem test_wit_AlphaChange : (⟨100, 100, 100, 254⟩ : Pixel).a ≠ (⟨100, 100, 100, 255⟩ : Pixel).a := by decide

theorem test_wit_DifferenceInverts : diff ⟨138, 131, 138, 255⟩ ⟨100, 100, 100, 255⟩ = some (.luma 63 15 15) ∧
    diff ⟨98, 98, 98, 255⟩ ⟨100, 100, 100, 255⟩ = some (.color 0 0 0) := by decide

theorem test_wit_CacheOperations :
    lookup State.reset.cache (pixelHash ⟨0, 0, 0, 0⟩) = ⟨0, 0, 0, 0⟩ ∧
    lookup State.reset.cache (pixelHash ⟨9, 9, 9, 9⟩) ≠ ⟨9, 9, 9, 9⟩ ∧ (63 : BitVec 6) ≠ pixelHash ⟨9, 9, 9, 9⟩ := by decide

/-- The hypothesis of the six chunk statements and of the run continuation, whatever the pixel: with 4 channels from the
first byte, with 3 channels from the last. -/
theorem test_wit_chunk_completes (p : Pixel) :
    (bodyOf .dec 4 [] 4).snk = oks ((pixelBytes 4 p).drop 0).length ++ [] ∧
    (bodyOf .dec 3 [] 1).snk = oks ((pixelBytes 3 p).drop 2).length ++ [] := ⟨rfl, rfl⟩

theorem test_wit_RgbTakesLiteralColour : ∃ s : State, ∃ rest,
    s.snk = oks ((pixelBytes s.metaChannels ⟨1, 2, 3, s.prev.a⟩).drop s.wrCnt).length ++ rest := ⟨bodyOf .dec 4 [] 4, [], rfl⟩

theorem test_wit_RgbaTakesLiteralPixel : ∃ s : State, ∃ rest,
    s.snk = oks ((pixelBytes s.metaChannels ⟨1, 2, 3, 4⟩).drop s.wrCnt).length ++ rest :=
  ⟨{ bodyOf .dec 3 [] 1 with wrCnt := 2 }, [], rfl⟩

theorem test_wit_IndexTakesSlot : ∃ s : State, ∃ rest,
    s.snk = oks ((pixelBytes s.metaChannels (lookup s.cache 63)).drop s.wrCnt).length ++ rest := ⟨bodyOf .dec 4 [] 4, [], rfl⟩

/-- T-X19: `COLOR 0,0,0` against (0,0,0,255). -/
theorem test_wit_ColorAddsDeltas : let s := bodyOf .dec 4 [] 4
    254 = (s.prev.r.toNat + (0 : BitVec 2).toNat + 254) % 256 ∧
    s.snk = oks ((pixelBytes s.metaChannels ⟨254, 254, 254, 255⟩).drop s.wrCnt).length ++ [] := by decide

/-- T-X19: `LUMA 0,0,0` against (254,254,254,255) gives (214,222,214,255). -/
theorem test_wit_LumaAddsDeltas : let s := { bodyOf .dec 4 [] 4 with prev := ⟨254, 254, 254, 255⟩ }
    222 = (s.prev.g.toNat + (0 : BitVec 6).toNat + 224) % 256 ∧
    214 = (s.prev.r.toNat + (0 : BitVec 6).toNat + (0 : BitVec 4).toNat + 216) % 256 ∧
    214 = (s.prev.b.toNat + (0 : BitVec 6).toNat + (0 : BitVec 4).toNat + 216) % 256 ∧
    s.snk = oks ((pixelBytes s.metaChannels ⟨214, 222, 214, 255⟩).drop s.wrCnt).length ++ [] := by decide

theorem test_wit_RunRepeatsPrevious : let s := bodyOf .dec 4 [] 4
    1 ≤ (62 : BitVec 6).toNat ∧ (62 : BitVec 6).toNat ≤ 62 ∧ 1 ≤ (1 : BitVec 6).toNat ∧
    s.snk = oks ((pixelBytes s.metaChannels s.prev).drop s.wrCnt).length ++ [] := by decide

theorem test_wit_ChunkWaitsForSink : let s := bodyOf .dec 4 [] 3
    (Instr.rgb 1 2 3).wellFormed = true ∧ 3 < ((pixelBytes s.metaChannels (resolved s (.rgb 1 2 3))).drop s.wrCnt).length ∧
    s.snk = oks 3 := by decide

theorem test_wit_ChunkReportsSinkError : let s := { bodyOf .dec 4 [] 0 with snk := [.ok, .ioErr] }
    (Instr.rgb 1 2 3).wellFormed = true ∧ ((pixelBytes s.metaChannels (resolved s (.rgb 1 2 3))).drop s.wrCnt)[1]? = some 2 ∧
    s.snk = oks 1 ++ .ioErr :: [] := by decide

theorem test_wit_StepTakesTurns : ({ State.reset with agenda := [(0, .startDec)] } : State).agenda = (0, .startDec) :: [] ∧
    hostDue { State.reset with agenda := [(1, .startDec)] } = false ∧ hostDue State.reset = false ∧
    State.reset.phase.busy = false := by decide

/-- The second byte of a `LUMA` is still to come; one byte has been read before. -/
theorem test_wit_StepRunsDecodedChunk : let s := { bodyOf .dec 4 [0xD1] 4 with rdBuf := [0xA5], agenda := [(1, .reset)] }
    AtDecodeStep s ∧ s.run = 0 ∧ hostDue s = false ∧ s.src = delivers [0xD1] ++ [] ∧
    decode (s.rdBuf ++ [0xD1]) = .chunk (.luma 37 13 1) [] := by
  refine ⟨⟨?_, ?_, ?_⟩, ?_⟩ <;> decide

theorem test_wit_ChunkFetchWaits : let s := bodyOf .dec 4 [0xFF, 1, 2, 3] 4
    AtDecodeStep s ∧ s.run = 0 ∧ s.src = delivers [0xFF, 1, 2, 3] ∧
    decode (s.rdBuf ++ [0xFF, 1, 2, 3]) = .rejected (.truncated .rgba) := by
  refine ⟨⟨?_, ?_, ?_⟩, ?_⟩ <;> decide

/-- T-O17, by `Eof` and by `IoErr`. -/
theorem test_wit_ChunkCutShortRaises :
    let s := { bodyOf .dec 4 [] 4 with src := [.byte 0xA5, .eof] }
    let u := { bodyOf .dec 4 [] 4 with src := [.ioErr] }
    (AtDecodeStep s ∧ s.run = 0 ∧ decode (s.rdBuf ++ [0xA5]) = .rejected (.truncated .luma) ∧
      s.src = delivers [0xA5] ++ .eof :: []) ∧
    (AtDecodeStep u ∧ u.run = 0 ∧ decode (u.rdBuf ++ []) = .rejected .noLeadingByte ∧ u.src = delivers [] ++ .ioErr :: []) := by
  refine ⟨⟨⟨?_, ?_, ?_⟩, ?_⟩, ⟨⟨?_, ?_, ?_⟩, ?_⟩⟩ <;> decide

theorem test_wit_RunContinuation : let s := { bodyOf .dec 4 [] 4 with run := 61 }
    AtDecodeStep s ∧ s.run ≠ 0 ∧ s.snk = oks ((pixelBytes s.metaChannels s.prev).drop s.wrCnt).length ++ [] := by
  refine ⟨⟨?_, ?_, ?_⟩, ?_⟩ <;> decide

/-- T-X5: a run of 62 of which 2 pixels are output. -/
theorem test_wit_RunChunkYieldsCountPixels : let s := bodyOf .dec 4 [0xFD] 8
    s.phase = .body ∧ s.mode = .dec ∧ s.run = 0 ∧ s.rdBuf = [] ∧ s.wrCnt = 0 ∧ s.agenda = [] ∧
    (0xFD#8).toNat = 0xC0 + 62 - 1 ∧ s.src = .byte 0xFD :: [] ∧ s.pixDone.toNat + 2 ≤ s.pixTotal.toNat ∧
    s.snk = oks (2 * (pixelBytes s.metaChannels s.prev).length) ++ [] := by decide

theorem test_wit_RepeatedPixelExtendsRun :
    let s := { bodyOf .enc 4 [0, 255] 1 with rdBuf := [0, 0], run := 60 }
    let u := { bodyOf .enc 3 [0, 0, 0] 1 with run := 61 }
    (AtEncodeStep s ∧ s.src = delivers [0, 255] ++ [] ∧ s.rdBuf ++ [0, 255] = pixelBytes s.metaChannels s.prev ∧ s.run.toNat < 61) ∧
    (AtEncodeStep u ∧ u.src = delivers [0, 0, 0] ++ [] ∧ u.rdBuf ++ [0, 0, 0] = pixelBytes u.metaChannels u.prev ∧
      u.run.toNat = 61 ∧ u.snk = oks (([0xFD#8] : List Byte).drop u.wrCnt).length ++ []) := by
  refine ⟨⟨⟨?_, ?_, ?_⟩, ?_⟩, ⟨⟨?_, ?_, ?_⟩, ?_⟩⟩ <;> decide

theorem test_wit_CachedPixelEmitsIndex :
    let s := { bodyOf .enc 4 [0, 0, 0, 0] 2 with run := 61 }
    AtEncodeStep s ∧ s.src = delivers [0, 0, 0, 0] ++ [] ∧ s.rdBuf ++ [0, 0, 0, 0] = pixelBytes s.metaChannels ⟨0, 0, 0, 0⟩ ∧
    s.metaChannels = 4 ∧ (⟨0, 0, 0, 0⟩ : Pixel) ≠ s.prev ∧ lookup s.cache (pixelHash ⟨0, 0, 0, 0⟩) = ⟨0, 0, 0, 0⟩ ∧
    s.run.toNat ≤ 61 ∧ s.snk = oks (([0xBF#8 + s.run.setWidth 8] ++ [(pixelHash ⟨0, 0, 0, 0⟩).setWidth 8] : List Byte).drop s.wrCnt).length ++ [] := by
  refine ⟨⟨?_, ?_, ?_⟩, ?_⟩ <;> decide

/-- The hypotheses of `UncachedPixelEmitsDifferenceOrLiteral` but for the two equations that name its output. -/
def missHypotheses (s : State) (p : Pixel) (new op : List Byte) : Prop :=
  AtEncodeStep s ∧ s.src = delivers new ++ [] ∧ s.rdBuf ++ new = pixelBytes s.metaChannels p ∧
  (s.metaChannels ≠ 4 → p.a = s.prev.a) ∧ p ≠ s.prev ∧ lookup s.cache (pixelHash p) ≠ p ∧ s.run.toNat ≤ 61 ∧
  s.snk = oks (((if s.run = 0 then [] else [0xBF#8 + s.run.setWidth 8]) ++ op).drop s.wrCnt).length ++ []

/-- Each of the four chunks a miss can give: `COLOR`, `LUMA` after a run, `RGB` with 3 channels, `RGBA`. -/
theorem test_wit_UncachedPixel :
    (missHypotheses (bodyOf .enc 4 [1, 1, 1, 255] 1) ⟨1, 1, 1, 255⟩ [1, 1, 1, 255] [0x7F] ∧
      diff ⟨1, 1, 1, 255⟩ State.reset.prev = some (.color 3 3 3)) ∧
    (missHypotheses { bodyOf .enc 4 [5, 5, 5, 255] 3 with run := 61 } ⟨5, 5, 5, 255⟩ [5, 5, 5, 255] [0xA5, 0x88] ∧
      diff ⟨5, 5, 5, 255⟩ State.reset.prev = some (.luma 37 8 8)) ∧
    (missHypotheses (bodyOf .enc 3 [100, 100, 100] 4) ⟨100, 100, 100, 255⟩ [100, 100, 100] [0xFE, 100, 100, 100] ∧
      diff ⟨100, 100, 100, 255⟩ State.reset.prev = none) ∧
    (missHypotheses (bodyOf .enc 4 [1, 2, 3, 4] 5) ⟨1, 2, 3, 4⟩ [1, 2, 3, 4] [0xFF, 1, 2, 3, 4] ∧
      diff ⟨1, 2, 3, 4⟩ State.reset.prev = none) := by
  refine ⟨⟨⟨⟨?_, ?_, ?_⟩, ?_⟩, ?_⟩, ⟨⟨⟨?_, ?_, ?_⟩, ?_⟩, ?_⟩, ⟨⟨⟨?_, ?_, ?_⟩, ?_⟩, ?_⟩, ⟨⟨⟨?_, ?_, ?_⟩, ?_⟩, ?_⟩⟩ <;> decide

theorem test_wit_InputPixelCutShort :
    let s := { bodyOf .enc 4 [] 0 with rdBuf := [1], src := delivers [2, 3] ++ [.eof] }
    let u := { bodyOf .enc 3 [] 0 with src := delivers [2, 3] ++ [.ioErr] }
    (AtEncodeStep s ∧ (s.rdBuf ++ [2, 3]).length < (if s.metaChannels = 4 then 4 else 3) ∧ s.src = delivers [2, 3] ++ .eof :: []) ∧
    (AtEncodeStep u ∧ (u.rdBuf ++ [2, 3]).length < (if u.metaChannels = 4 then 4 else 3) ∧ u.src = delivers [2, 3] ++ .ioErr :: []) ∧
    (bodyOf .enc 3 [2, 3] 0).src = delivers [2, 3] := by
  refine ⟨⟨⟨?_, ?_, ?_⟩, ?_⟩, ⟨⟨?_, ?_, ?_⟩, ?_⟩, ?_⟩ <;> decide

theorem test_wit_SelectedChunkResolvesBack : (⟨0, 0, 0, 0⟩ : Pixel) ≠ State.reset.prev := by decide

theorem test_wit_EncodeHeaderWrites : let s := { headerOf .enc [] with metaChannels := 3, metaColorspace := 1, snk := oks 13, wrCnt := 1 }
    s.phase = .header ∧ s.mode = .enc ∧ (s.metaChannels = 3 ∨ s.metaChannels = 4) ∧ (s.metaColorspace = 0 ∨ s.metaColorspace = 1) ∧
    s.snk = oks ((headerBytes 0 0 3 1).drop s.wrCnt).length ++ [] := by decide

theorem test_wit_EncodeHeaderRefuses :
    let s := { headerOf .enc [] with metaChannels := 5 }
    let u := { headerOf .enc [] with metaChannels := 4, metaColorspace := 2 }
    (s.metaChannels ≠ 3 ∧ s.metaChannels ≠ 4) ∧ (u.metaChannels = 3 ∨ u.metaChannels = 4) ∧ u.metaColorspace ≠ 0 ∧
    u.metaColorspace ≠ 1 := by decide

theorem test_wit_EncodeFinish :
    let s := { State.reset with phase := .trailer, run := 61, snk := oks 9 }
    s.phase = .trailer ∧ s.run.toNat ≤ 61 ∧
    s.snk = oks ((([0xBF#8 + s.run.setWidth 8] : List Byte) ++ [0#8, 0#8, 0#8, 0#8, 0#8, 0#8, 0#8, 1#8]).drop s.wrCnt).length ++ [] := by
  decide

theorem test_wit_FlushEndsCall : ∀ answers : List SnkAnswer,
    ({ State.reset with phase := .flush, snk := answers } : State).phase = .flush ∧
    ({ State.reset with phase := .flush, snk := answers } : State).snk = answers := fun _ => ⟨rfl, rfl⟩

theorem test_wit_BodyEnds : ∀ m : Mode, let s := { bodyOf m 4 [] 0 with pixDone := 2 }
    s.phase = .body ∧ s.pixTotal ≤ s.pixDone ∧ s.mode = m := by
  intro m; cases m <;> decide

theorem test_wit_DecodeHeaderParses :
    let new : List Byte := [0x66, 0, 0, 0, 2, 0, 0, 0, 1, 4, 0]
    let s := { headerOf .dec (delivers new) with rdBuf := [0x71, 0x6F, 0x69] }
    s.src = delivers new ++ [] ∧ s.rdBuf ++ new = [0x71#8, 0x6F#8, 0x69#8, 0x66#8,
      (2#32).extractLsb' 24 8, (2#32).extractLsb' 16 8, (2#32).extractLsb' 8 8, (2#32).extractLsb' 0 8,
      (1#32).extractLsb' 24 8, (1#32).extractLsb' 16 8, (1#32).extractLsb' 8 8, (1#32).extractLsb' 0 8, 4, 0] := by decide

/-- T-G1, T-G7, T-G6b. -/
theorem test_wit_DecodeHeaderRefuses :
    let m := (headerBytes 1 1 3 255).take 12
    [0x71#8, 0x71, 0x71, 0x71] ≠ [0x71#8, 0x6F#8, 0x69#8, 0x66#8] ∧ m.length = 12 ∧
    m.take 4 = [0x71#8, 0x6F#8, 0x69#8, 0x66#8] ∧ ((5 : Byte) ≠ 3 ∧ (5 : Byte) ≠ 4) ∧
    (headerOf .dec (delivers (m ++ [5]))).src = delivers (m ++ [5]) ++ [] ∧ ((255 : Byte) ≠ 0 ∧ (255 : Byte) ≠ 1) ∧
    (headerOf .dec (delivers (m ++ [3, 255]))).src = delivers (m ++ [3, 255]) ++ [] := by decide

/-- At the ends of the three ranges: 0, 3, 4, 11, 12 and 13 bytes. -/
theorem test_wit_TruncatedHeader : ∀ n ∈ [0, 3, 4, 11, 12, 13], let m := (headerBytes 1 1 4 0).take n
    let s := headerOf .dec (delivers m ++ [.eof])
    s.phase = .header ∧ s.mode = .dec ∧ s.rdBuf = [] ∧ m.length < 14 ∧ m.length = n ∧ m = (headerBytes 1 1 4 0).take m.length ∧
    s.src = delivers m ++ .eof :: [] := by decide

/-- T-S8: the sink never answers the first write; nothing moves. -/
theorem test_sink_never_answers : let s := { headerOf .enc [] with metaChannels := 4 }
    nextOf (step s) = s := by decide

/-- T-X17's place: a run waits after the first byte of its second pixel; `run` is not lowered yet. -/
theorem test_run_continuation_waits : let t := nextOf (step { bodyOf .dec 4 [] 1 with prev := ⟨1, 2, 3, 255⟩, run := 1 })
    t.run = 1 ∧ t.pixDone = 0 ∧ sinkBytes t.hist = [1] ∧ t.phase = .body := by decide

/-- Every clause: `RGBA` with two of its bytes accepted and one more to come; a run of 61; the encode header after 13 bytes;
the finish with an open run; and the decode header after 7, 8, 12 and 13 bytes. -/
theorem test_wit_UnansweredPort :
    let e := { bodyOf .enc 4 [3, 4] 1 with rdBuf := [1, 2], wrCnt := 2 }
    let d := { bodyOf .dec 3 [] 2 with run := 61 }
    let h := { headerOf .enc [] with metaChannels := 3, metaColorspace := 1, snk := oks 0, wrCnt := 13 }
    let f := { State.reset with phase := .trailer, run := 61, snk := oks 8 }
    (AtEncodeStep e ∧ e.src = delivers [3, 4] ++ [] ∧ e.rdBuf ++ [3, 4] = pixelBytes e.metaChannels ⟨1, 2, 3, 4⟩ ∧
      (e.metaChannels ≠ 4 → (4 : Byte) = e.prev.a) ∧ (∃ plan, encPlan e.cache e.run ⟨1, 2, 3, 4⟩ e.prev = some plan ∧
        1 < (plan.out.drop e.wrCnt).length) ∧ e.snk = oks 1) ∧
    (AtDecodeStep d ∧ d.run ≠ 0 ∧ 2 < ((pixelBytes d.metaChannels d.prev).drop d.wrCnt).length ∧ d.snk = oks 2) ∧
    (0 < ((headerBytes h.metaWidth h.metaHeight h.metaChannels h.metaColorspace).drop h.wrCnt).length ∧ h.snk = oks 0) ∧
    (f.run.toNat ≤ 61 ∧ 8 < ([0xFC#8, 0, 0, 0, 0, 0, 0, 0, 1].drop f.wrCnt).length ∧ f.snk = oks 8) ∧
    (∀ n ∈ [7, 8, 12, 13], let m := (headerBytes 1 1 4 0).take n
      m.length < 14 ∧ m.length = n ∧ m = (headerBytes 1 1 4 0).take m.length ∧
      ({ headerOf .dec (delivers (m.drop 2)) with rdBuf := m.take 2 } : State).rdBuf ++ m.drop 2 = m) := by
  refine ⟨⟨⟨?_, ?_, ?_⟩, ?_, ?_, ?_, ⟨_, rfl, ?_⟩, ?_⟩, ⟨⟨?_, ?_, ?_⟩, ?_⟩, ?_⟩ <;> decide

theorem test_wit_CommandStartsCall : State.reset.phase = .idle ∧ State.reset.phase.busy = false ∧
    Phase.busy .done = false ∧ Phase.busy .error = false := by decide

theorem test_wit_BusyEngineIgnoresHost : (bodyOf .enc 4 [] 0).phase = .body ∧ State.reset.phase = .idle := by decide

/-- Two states that differ in every register a call initialises. -/
theorem test_wit_CallStartsFresh :
    let s := { State.reset with phase := .done, prev := ⟨1, 2, 3, 4⟩, run := 9, pixDone := 7, pixTotal := 7, mode := .dec }
    s ≠ State.reset ∧ s.phase.busy = false ∧ s.metaWidth = State.reset.metaWidth ∧ s.hist = State.reset.hist := by decide

/-- A legal state in the middle of an encode call: one pixel done, one to come. -/
def legalBody : State :=
  { bodyOf .enc 4 [100, 100, 100, 255, 0] 16 with
    cache := cacheInsert State.reset.cache ⟨1, 2, 3, 4⟩, prev := ⟨1, 2, 3, 4⟩, pixDone := 1 }

theorem test_wit_legal : Inv legalBody where
  errKind_iff := by decide
  raised := by decide
  errByte_zero := by decide
  run_le := by decide
  slots := fun _ i => by
    by_cases h : i = pixelHash ⟨1, 2, 3, 4⟩
    · subst h; exact .inr (by rw [legalBody, lookup_cacheInsert_same])
    · exact .inl (by rw [legalBody, lookup_cacheInsert_other _ _ _ h]; exact lookup_replicate _ _)
  count_le := by decide
  fresh := by decide
  trailer_enc := by decide
  meta_ok := by decide
  all_done := by decide
  alpha_full := by decide
  idle_clean := by decide

theorem test_wit_StepKeepsLegal : Inv legalBody ∧ ∃ t, step legalBody = .next t ∧ t.pixDone = 2 := ⟨test_wit_legal, _, rfl, rfl⟩

theorem test_wit_PhaseMoves : ∃ t, engineStep legalBody = .next t ∧ t.phase = .body := ⟨_, rfl, rfl⟩

theorem test_wit_PortOperations : ∃ t, engineStep legalBody = .next t ∧
    t.hist = legalBody.hist ++ [.readByte 100, .readByte 100, .readByte 100, .readByte 255,
      .wrote 0xFF, .wrote 100, .wrote 100, .wrote 100, .wrote 255] := ⟨_, rfl, by decide⟩

theorem test_wit_Flush : ∃ t, engineStep { State.reset with phase := .flush, snk := [.ok] } = .next t ∧
    t.hist = [] ++ [.flushed] ∧ t.phase = .done := ⟨_, rfl, rfl, rfl⟩

theorem test_wit_IoError : ∃ t, engineStep { legalBody with src := [.ioErr] } = .next t ∧ t.hist = legalBody.hist ++ [.readIoErr] ∧
    legalBody.phase ≠ .error ∧ legalBody.errKind = .none := ⟨_, rfl, rfl, by decide, by decide⟩

theorem test_wit_Unreachable : ∃ t, step { legalBody with src := [.ioErr] } = .next t ∧ t.errKind = .ioError := ⟨_, rfl, rfl⟩

theorem test_wit_AnsweredBody : Inv legalBody ∧ legalBody.phase.afterHeader = true ∧ legalBody.agenda = [] ∧
    5 * (legalBody.pixTotal.toNat - legalBody.pixDone.toNat) ≤ legalBody.src.length ∧
    6 * (legalBody.pixTotal.toNat - legalBody.pixDone.toNat) + 10 ≤ legalBody.snk.length :=
  ⟨test_wit_legal, by decide, by decide, by decide, by decide⟩

/-- A 1 x 1 image with 3 channels; the decode call's source is whatever the encode call's sink took. -/
theorem test_wit_RoundTrip (h : List PortEvent) :
    let s := { State.reset with agenda := [(0, .startEnc)], metaWidth := 1, metaHeight := 1, metaChannels := 3,
                                src := delivers [9, 8, 7], snk := oks 30 }
    let d := { State.reset with agenda := [(0, .startDec)], src := delivers (sinkBytes h), snk := oks 4 }
    (s.phase.busy = false ∧ (s.metaChannels = 3 ∨ s.metaChannels = 4) ∧ (s.metaColorspace = 0 ∨ s.metaColorspace = 1) ∧
      [9#8, 8, 7].length = s.metaWidth.toNat * s.metaHeight.toNat * s.metaChannels.toNat ∧
      6 * (s.metaWidth.toNat * s.metaHeight.toNat) + 24 ≤ 30) ∧
    (d.phase.busy = false ∧ d.src = delivers (sinkBytes h) ++ [] ∧ d.snk = oks 4 ∧ [9#8, 8, 7].length + 1 ≤ 4) :=
  ⟨by decide, rfl, by simp, rfl, by decide⟩

end Sys2Proof.Tests
end

section
/-! The leading byte as a number: the kind it names (rule R89), the length of its chunk (rule R90), and what `decode`
answers on bytes shorter than that length and on bytes that reach it (rule R93). -/

namespace Sys2Proof

/-! ## The leading byte as a number -/

/-- The two tag bits of a leading byte are its quarter of the 256 values. -/
theorem tagBits_eq_iff (b0 : Byte) (tag : BitVec 2) : b0.extractLsb' 6 2 = tag ↔ b0.toNat / 64 = tag.toNat := by
  have hquarter : b0.toNat / 2 ^ 6 % 2 ^ 2 = b0.toNat / 64 := Nat.mod_eq_of_lt (by omega)
  rw [← BitVec.toNat_inj, BitVec.extractLsb'_toNat, Nat.shiftRight_eq_div_pow, hquarter]

theorem kindOf_eq (b0 : Byte) : kindOf b0 =
    if b0.toNat = 0xFE then .rgb else if b0.toNat = 0xFF then .rgba else if b0.toNat / 64 = 0 then .index
    else if b0.toNat / 64 = 1 then .color else if b0.toNat / 64 = 2 then .luma else .run := by
  simp only [kindOf, tagBits_eq_iff, ← BitVec.toNat_inj (x := b0)]
  rfl

theorem chunkLen_eq (b0 : Byte) : chunkLen b0 =
    if b0.toNat = 0xFE then 4 else if b0.toNat = 0xFF then 5 else if b0.toNat / 64 = 2 then 2 else 1 := by
  simp only [chunkLen, tagBits_eq_iff, ← BitVec.toNat_inj (x := b0)]
  rfl

/-- A leading byte's kind, its range and its chunk's length, one case a kind. -/
theorem kindOf_cases (b0 : Byte) :
    (kindOf b0 = .rgb ∧ b0.toNat = 0xFE ∧ chunkLen b0 = 4) ∨
    (kindOf b0 = .rgba ∧ b0.toNat = 0xFF ∧ chunkLen b0 = 5) ∨
    (kindOf b0 = .index ∧ b0.toNat ≤ 0x3F ∧ chunkLen b0 = 1) ∨
    (kindOf b0 = .color ∧ (0x40 ≤ b0.toNat ∧ b0.toNat ≤ 0x7F) ∧ chunkLen b0 = 1) ∨
    (kindOf b0 = .luma ∧ (0x80 ≤ b0.toNat ∧ b0.toNat ≤ 0xBF) ∧ chunkLen b0 = 2) ∨
    (kindOf b0 = .run ∧ (0xC0 ≤ b0.toNat ∧ b0.toNat ≤ 0xFD) ∧ chunkLen b0 = 1) := by
  rw [kindOf_eq, chunkLen_eq]
  split_ifs <;> simp <;> omega

/-- Settles O2: the six ranges are disjoint, so the kind a byte has fixes its range and the range its kind. -/
theorem leadingByteKinds : Obligations.LeadingByteKinds := by
  intro b0
  rcases kindOf_cases b0 with ⟨hk, hr, -⟩ | ⟨hk, hr, -⟩ | ⟨hk, hr, -⟩ | ⟨hk, hr, -⟩ | ⟨hk, hr, -⟩ | ⟨hk, hr, -⟩ <;>
    simp [hk] <;> omega

/-! ## Decoding by length -/

theorem runCountOk_iff (count : BitVec 6) : runCountOk count = true ↔ 1 ≤ count.toNat ∧ count.toNat ≤ 62 := by
  simp [runCountOk, Config.runMax, BitVec.le_def]

/-- The count a `RUN` byte stores with bias 1 is well formed, because 0xFE and 0xFF are no `RUN` bytes (rule R94). -/
theorem runCountOk_of_kindOf_run {b0 : Byte} (h : kindOf b0 = .run) : runCountOk (b0.extractLsb' 0 6 + 1) = true := by
  obtain ⟨-, -, -, -, -, hrun⟩ := leadingByteKinds b0
  have hrange : 0xC0 ≤ b0.toNat ∧ b0.toNat ≤ 0xFD := hrun.1 h
  have hcount : (b0.extractLsb' 0 6 + 1).toNat = (b0.toNat % 64 + 1) % 64 := by simp
  rw [runCountOk_iff, hcount]
  omega

/-- The answer `d` on a leading byte of a chunk of `n` bytes with `more` after it: cut short where the bytes are fewer than
`n`, else a well-formed chunk of `n` bytes and the bytes left over (rules R90, R93). -/
def AnswersByLength (n : Nat) (more : List Byte) (d : Decoded) : Prop :=
  (more.length + 1 < n → ∃ kind, d = .rejected (.truncated kind)) ∧
  (n ≤ more.length + 1 → ∃ i rest, d = .chunk i rest ∧ i.wellFormed = true ∧ i.length = n ∧
    more.length + 1 = n + rest.length)

theorem AnswersByLength.truncated {n : Nat} {more : List Byte} (kind : ChunkKind) (h : more.length + 1 < n) :
    AnswersByLength n more (.rejected (.truncated kind)) :=
  ⟨fun _ => ⟨kind, rfl⟩, fun hle => absurd h (Nat.not_lt.2 hle)⟩

theorem AnswersByLength.chunk {more rest : List Byte} {i : Instr} (hwf : i.wellFormed = true)
    (hlen : more.length + 1 = i.length + rest.length) : AnswersByLength i.length more (.chunk i rest) :=
  ⟨fun hlt => absurd hlt (by omega), fun _ => ⟨i, rest, rfl, hwf, rfl, hlen⟩⟩

theorem decodeRgb_answersByLength : ∀ more, AnswersByLength 4 more (decodeRgb more)
  | [] | [_] | [_, _] => .truncated .rgb (by simp)
  | r :: g :: b :: rest => .chunk (i := .rgb r g b) rfl (by simp [Instr.length]; omega)

theorem decodeRgba_answersByLength : ∀ more, AnswersByLength 5 more (decodeRgba more)
  | [] | [_] | [_, _] | [_, _, _] => .truncated .rgba (by simp)
  | r :: g :: b :: a :: rest => .chunk (i := .rgba r g b a) rfl (by simp [Instr.length]; omega)

theorem decodeLuma_answersByLength (b0 : Byte) : ∀ more, AnswersByLength 2 more (decodeLuma b0 more)
  | [] => .truncated .luma (by simp)
  | b1 :: rest => .chunk (i := .luma (b0.extractLsb' 0 6) (b1.extractLsb' 4 4) (b1.extractLsb' 0 4)) rfl
      (by simp [Instr.length]; omega)

theorem decode_answersByLength (b0 : Byte) (more : List Byte) :
    AnswersByLength (chunkLen b0) more (decode (b0 :: more)) := by
  have hone : more.length + 1 = 1 + more.length := Nat.add_comm ..
  rcases kindOf_cases b0 with ⟨hk, -, hn⟩ | ⟨hk, -, hn⟩ | ⟨hk, -, hn⟩ | ⟨hk, -, hn⟩ | ⟨hk, -, hn⟩ | ⟨hk, -, hn⟩ <;>
    simp only [decode, hk, hn]
  · exact decodeRgb_answersByLength more
  · exact decodeRgba_answersByLength more
  · exact .chunk (i := .index _) rfl hone
  · exact .chunk (i := .color _ _ _) rfl hone
  · exact decodeLuma_answersByLength b0 more
  · exact .chunk (i := .run _) (runCountOk_of_kindOf_run hk) hone

/-- Settles O3: `chunkLen` by number, and `decode` kind by kind of the leading byte. -/
theorem chunkLengthFromLeadingByte : Obligations.ChunkLengthFromLeadingByte :=
  fun b0 more => ⟨chunkLen_eq b0, decode_answersByLength b0 more⟩

end Sys2Proof
end

section
/-! The difference model by signed deltas: a biased delta in range as a fact about integers, what each check answers by
those integers (rules R119, R120), and from them what `diff` answers (rules R117, R119, R120). -/

namespace Sys2Proof

open Machine

/-! ## Biased deltas as integers -/

/-- A biased delta passes the bound `m` exactly where the signed delta is in `-k..m-k`: no other delta wraps into `0..m`. -/
theorem add8_le_iff {v k m : Byte} (hk : k.toNat ≤ 128) (hm : m.toNat < 128) :
    add8 v k ≤ m ↔ -(k.toNat : Int) ≤ v.toInt ∧ v.toInt + k.toNat ≤ m.toNat := by
  rw [BitVec.le_def, add8, BitVec.toNat_add, BitVec.toInt_eq_toNat_cond]
  have := v.isLt
  split <;> omega

/-- Where the bias keeps the delta from being negative, the biased byte is the signed delta plus the bias. -/
theorem add8_toNat_of_bias_le {v k : Byte} (hk : k.toNat ≤ 128) (hv : -(k.toNat : Int) ≤ v.toInt) :
    ((add8 v k).toNat : Int) = v.toInt + k.toNat := by
  rw [add8, BitVec.toNat_add]
  rw [BitVec.toInt_eq_toNat_cond] at hv ⊢
  have := v.isLt
  split at hv <;> split <;> omega

/-- The range check of a channel and its `n`-bit field together say that the signed delta plus the bias is the field. -/
theorem biasedField_eq_iff {n : Nat} {v k m : Byte} (f : BitVec n) (hk : k.toNat ≤ 128) (hm : m.toNat < 128)
    (hn : m.toNat + 1 = 2 ^ n) :
    (add8 v k ≤ m ∧ f = (add8 v k).setWidth n) ↔ v.toInt + k.toNat = f.toNat := by
  have hf := f.isLt
  rw [add8_le_iff hk hm, ← BitVec.toNat_inj, BitVec.toNat_setWidth]
  constructor
  · rintro ⟨⟨hlo, hhi⟩, he⟩
    have hadd := add8_toNat_of_bias_le hk hlo
    rw [he, Nat.mod_eq_of_lt (by omega), hadd]
  · intro he
    have hadd := add8_toNat_of_bias_le (v := v) hk (by omega)
    refine ⟨by omega, ?_⟩
    rw [Nat.mod_eq_of_lt (by omega)]
    omega

/-- One channel of the small-color check. -/
theorem colorField_eq_iff (v : Byte) (f : BitVec 2) :
    (add8 v 2 ≤ 3 ∧ f = (add8 v 2).setWidth 2) ↔ v.toInt + 2 = f.toNat :=
  biasedField_eq_iff (m := 3) f (by decide) (by decide) rfl

/-- The green delta of the luma check. -/
theorem lumaGreenField_eq_iff (v : Byte) (f : BitVec 6) :
    (add8 v 32 ≤ 63 ∧ f = (add8 v 32).setWidth 6) ↔ v.toInt + 32 = f.toNat :=
  biasedField_eq_iff (m := 63) f (by decide) (by decide) rfl

/-- The red or blue delta of the luma check, taken against the green one. -/
theorem lumaOtherField_eq_iff (v : Byte) (f : BitVec 4) :
    (add8 v 8 ≤ 15 ∧ f = (add8 v 8).setWidth 4) ↔ v.toInt + 8 = f.toNat :=
  biasedField_eq_iff (m := 15) f (by decide) (by decide) rfl

/-! ## What each check answers -/

theorem colorOf_eq_color_iff (vr vg vb : Byte) (dr dg db : BitVec 2) :
    colorOf vr vg vb = some (.color dr dg db) ↔
      vr.toInt + 2 = dr.toNat ∧ vg.toInt + 2 = dg.toNat ∧ vb.toInt + 2 = db.toNat := by
  rw [colorOf_eq_some, DiffKind.color.injEq, ← colorField_eq_iff, ← colorField_eq_iff, ← colorField_eq_iff]
  tauto

theorem lumaOf_eq_luma_iff (vr vg vb : Byte) (dg : BitVec 6) (drg dbg : BitVec 4) :
    lumaOf vr vg vb = some (.luma dg drg dbg) ↔
      vg.toInt + 32 = dg.toNat ∧ (vr - vg).toInt + 8 = drg.toNat ∧ (vb - vg).toInt + 8 = dbg.toNat := by
  rw [lumaOf_eq_some, DiffKind.luma.injEq, ← lumaGreenField_eq_iff, ← lumaOtherField_eq_iff, ← lumaOtherField_eq_iff]
  simp only [sub8]
  tauto

theorem colorOf_eq_none_iff (vr vg vb : Byte) : colorOf vr vg vb = none ↔
    ¬((-2 ≤ vr.toInt ∧ vr.toInt ≤ 1) ∧ (-2 ≤ vg.toInt ∧ vg.toInt ≤ 1) ∧ (-2 ≤ vb.toInt ∧ vb.toInt ≤ 1)) := by
  have hrange (v : Byte) : add8 v 2 ≤ 3 ↔ -2 ≤ v.toInt ∧ v.toInt ≤ 1 :=
    (add8_le_iff (k := 2) (m := 3) (by decide) (by decide)).trans (and_congr_right' (by simp; omega))
  rw [colorOf_eq_none, hrange, hrange, hrange]

theorem colorOf_ne_luma (vr vg vb : Byte) (dg : BitVec 6) (drg dbg : BitVec 4) :
    colorOf vr vg vb ≠ some (.luma dg drg dbg) :=
  fun h => nomatch ((colorOf_eq_some ..).1 h).2

theorem lumaOf_ne_color (vr vg vb : Byte) (dr dg db : BitVec 2) : lumaOf vr vg vb ≠ some (.color dr dg db) :=
  fun h => nomatch ((lumaOf_eq_some ..).1 h).2

/-! ## What `diff` answers -/

/-- Settles O12: a `Color` can only come from the small-color check, whose three fields are the biased signed deltas. -/
theorem colorDifferenceExactly : Obligations.ColorDifferenceExactly := by
  intro c r dr dg db
  simp only [diff_eq_some, lumaOf_ne_color, and_false, or_false, colorOf_eq_color_iff, sub8]

/-- Settles O13: a `Luma` can only come from the luma check, and that check is reached only where the small-color check
fails. -/
theorem lumaDifferenceExactly : Obligations.LumaDifferenceExactly := by
  intro c r dg drg dbg
  simp only [diff_eq_some, colorOf_ne_luma, false_or, colorOf_eq_none_iff, lumaOf_eq_luma_iff, sub8]

theorem diff_eq_none_of_alpha_ne {c r : Pixel} (h : c.a ≠ r.a) : diff c r = none :=
  if_pos h

/-- Settles O11: the alpha gate answers first; a pixel against itself has three deltas of 0, whose fields are 2 (O12). -/
theorem alphaChangeHasNoDifference : Obligations.AlphaChangeHasNoDifference :=
  ⟨fun _ _ => diff_eq_none_of_alpha_ne, fun c => (colorDifferenceExactly c c 2 2 2).2 (by simp)⟩

end Sys2Proof
end

section
/-! The cache operations: what an insertion writes and leaves (rule R140), and what match-or-replace answers and leaves
(rule R141). -/

namespace Sys2Proof

open Machine

/-- Settles O15: the slot written, the slots left, and the overwriting of a pixel by itself. -/
theorem cacheInsertWritesOneSlot : Obligations.CacheInsertWritesOneSlot :=
  fun slots p => ⟨lookup_cacheInsert_same slots p, lookup_cacheInsert_other slots p, cacheInsert_of_hit slots p⟩

/-- Settles O16: on a hit the slot holds the pixel already; on a miss the cache is the one an insertion leaves. -/
theorem cacheMatchOrReplaceHitsOrReplaces : Obligations.CacheMatchOrReplaceHitsOrReplaces := by
  intro slots p
  obtain ⟨hhit, heq⟩ | ⟨hmiss, heq⟩ := cacheMatchOrReplace_cases slots p <;> rw [heq]
  · exact ⟨fun _ => rfl, fun hmiss => absurd hhit hmiss, hhit⟩
  · exact ⟨fun hhit => absurd hhit hmiss, fun _ => ⟨rfl, lookup_cacheInsert_other slots p⟩,
      lookup_cacheInsert_same slots p⟩

end Sys2Proof
end

section
/-! The encode pixel step: the input pixel from its bytes (rule R161), the step once its plan is chosen (rules R160, R173),
and the plan of a repeated pixel (rules R162, R163). -/

namespace Sys2Proof

open Machine

/-! ## The input pixel -/

@[simp] theorem length_pixelBytes (channels : Byte) (p : Pixel) : (pixelBytes channels p).length = stride channels := by
  unfold pixelBytes stride
  split <;> rfl

/-- A pixel's bytes give the pixel back, where alpha is read or is the previous pixel's. -/
theorem pixelOfBytes_pixelBytes {channels : Byte} {prev p : Pixel} (ha : channels ≠ 4 → p.a = prev.a) :
    pixelOfBytes channels prev (pixelBytes channels p) = p := by
  by_cases hc : channels = 4
  · rw [pixelBytes, pixelOfBytes, if_pos hc, if_pos hc]
    rfl
  · rw [pixelBytes, pixelOfBytes, if_neg hc, if_neg hc, ← ha hc]
    rfl

/-! ## The step -/

theorem engineStep_of_atEncodeStep {s : State} (h : AtEncodeStep s) : engineStep s = encPixelStep s := by
  obtain ⟨hphase, hmode, hdone⟩ := h
  simp [engineStep, bodyStep, hphase, hmode, hdone]

/-- Once the source has delivered the bytes of `p`, those read before a wait included, `p` is emitted. -/
theorem encPixelStep_of_delivers {s : State} {p : Pixel} {new : List Byte} {rest : List SrcAnswer}
    (hsrc : s.src = delivers new ++ rest) (hbytes : s.rdBuf ++ new = pixelBytes s.metaChannels p)
    (ha : s.metaChannels ≠ 4 → p.a = s.prev.a) : encPixelStep s = emitPixel p (afterReads new rest s) := by
  have hlen : s.rdBuf.length + new.length = stride s.metaChannels := by
    rw [← List.length_append, hbytes, length_pixelBytes]
  rw [encPixelStep, fill_go _ new rest _ s hlen hsrc, Flow.settle_go, afterReads_rdBuf, hbytes, afterReads_metaChannels,
    afterReads_prev, pixelOfBytes_pixelBytes ha]

theorem emitPixel_of_plan {s : State} {p : Pixel} {plan : EncPlan} {snkRest : List SnkAnswer}
    (hplan : encPlan s.cache s.run p s.prev = some plan) (hsnk : s.snk = oks (plan.out.drop s.wrCnt).length ++ snkRest) :
    emitPixel p s = .next (afterEncPixel p plan.cache plan.run (plan.out.drop s.wrCnt) snkRest s) := by
  simp only [emitPixel, hplan, drain_go _ snkRest s hsnk, Flow.settle_go]
  rfl

/-- An encode pixel step whose bytes the source delivers and whose output the sink accepts does what its plan says. -/
theorem engineStep_of_encPlan {s : State} {p : Pixel} {plan : EncPlan} {new : List Byte} {rest : List SrcAnswer}
    {snkRest : List SnkAnswer} (h : AtEncodeStep s) (hsrc : s.src = delivers new ++ rest)
    (hbytes : s.rdBuf ++ new = pixelBytes s.metaChannels p) (ha : s.metaChannels ≠ 4 → p.a = s.prev.a)
    (hplan : encPlan s.cache s.run p s.prev = some plan) (hsnk : s.snk = oks (plan.out.drop s.wrCnt).length ++ snkRest) :
    engineStep s = .next (afterEncPixel p plan.cache plan.run (plan.out.drop s.wrCnt) snkRest
      { s with src := rest, hist := s.hist ++ new.map .readByte }) := by
  rw [engineStep_of_atEncodeStep h, encPixelStep_of_delivers hsrc hbytes ha]
  exact emitPixel_of_plan (s := afterReads new rest s) hplan hsnk

/-! ## The plan of a repeated pixel -/

@[simp] theorem encPlan_self (c : Slots) (run : BitVec 6) (p : Pixel) : encPlan c run p p = planRepeat c run :=
  if_pos rfl

theorem planRepeat_of_lt (c : Slots) {run : BitVec 6} (h : run.toNat < 61) : planRepeat c run = some ⟨[], run + 1, c⟩ := by
  have hne63 : run ≠ 63 := by bv_omega
  have hneMax : run + 1 ≠ Config.runMax := by rw [Config.runMax]; bv_omega
  rw [planRepeat, if_neg hne63, if_neg hneMax]

/-- The 62nd repeated pixel saturates the run. -/
theorem planRepeat_61 (c : Slots) : planRepeat c 61 = some ⟨[0xFD], 0, c⟩ := rfl

/-- Settles O31: the step carries out `planRepeat`, which emits nothing below a run of 61 and the byte of `Run(62)` at it. -/
theorem repeatedPixelExtendsRun : Obligations.RepeatedPixelExtendsRun := by
  intro s new rest hat hsrc hbytes
  constructor
  · intro hrun
    have hplan : encPlan s.cache s.run s.prev s.prev = some ⟨[], s.run + 1, s.cache⟩ := by
      rw [encPlan_self, planRepeat_of_lt s.cache hrun]
    have hsnk : s.snk = oks (([] : List Byte).drop s.wrCnt).length ++ s.snk := by simp [oks]
    simpa using engineStep_of_encPlan hat hsrc hbytes (fun _ => rfl) hplan hsnk
  · intro snkRest hrun hsnk
    have hrun61 : s.run = 61 := BitVec.eq_of_toNat_eq hrun
    have hplan : encPlan s.cache s.run s.prev s.prev = some ⟨[0xFD], 0, s.cache⟩ := by
      rw [encPlan_self, hrun61, planRepeat_61]
    exact engineStep_of_encPlan hat hsrc hbytes (fun _ => rfl) hplan hsnk

end Sys2Proof
end

section
/-! What the chunks INDEX and COLOR complete with (rules R193, R194). -/

namespace Sys2Proof

open Machine

/-- Settles O19: INDEX resolves to the pixel of its slot, and completes as every pixel step does. -/
theorem indexTakesSlot : Obligations.IndexTakesSlot := by
  intro idx s rest hsnk
  rw [exec_eq (.index idx) s rfl]
  exact completePixel_go (lookup s.cache idx) s.run rest s hsnk

/-- A 2-bit field less its bias of 2, added to a channel modulo 256 (rules R112, R122). -/
theorem add_unbiased_eq {x y : Byte} {f : BitVec 2} (h : y.toNat = (x.toNat + f.toNat + 254) % 256) :
    x + (f.setWidth 8 - 2) = y := by
  bv_omega

theorem resolved_color_eq {s : State} {p : Pixel} {dr dg db : BitVec 2}
    (hr : p.r.toNat = (s.prev.r.toNat + dr.toNat + 254) % 256) (hg : p.g.toNat = (s.prev.g.toNat + dg.toNat + 254) % 256)
    (hb : p.b.toNat = (s.prev.b.toNat + db.toNat + 254) % 256) (ha : p.a = s.prev.a) : resolved s (.color dr dg db) = p := by
  rw [resolved, add_unbiased_eq hr, add_unbiased_eq hg, add_unbiased_eq hb, ← ha]

/-- Settles O20: COLOR resolves to the pixel with the unbiased deltas added, and completes as every pixel step does. -/
theorem colorAddsDeltas : Obligations.ColorAddsDeltas := by
  intro dr dg db p s rest hr hg hb ha hsnk
  rw [exec_eq (.color dr dg db) s rfl, resolved_color_eq hr hg hb ha]
  exact completePixel_go p s.run rest s hsnk

end Sys2Proof
end

section
/-! The decode pixel step (rule R190): the chunk it fetches and executes (rule R192), a run continuation (rule R191), and
the steps of a whole run (rule R198). -/

namespace Sys2Proof

open Machine

/-! ## Which step is taken -/

theorem engineStep_of_atDecodeStep {s : State} (h : AtDecodeStep s) : engineStep s = decPixelStep s := by
  obtain ⟨hphase, hmode, hdone⟩ := h
  simp [engineStep, bodyStep, hphase, hmode, hdone]

theorem step_of_agenda_nil {s : State} (h : s.agenda = []) : step s = engineStep s := by
  simp [step, turn, h]

theorem engineStep_of_run_ne_zero {s : State} (h : AtDecodeStep s) (hrun : s.run ≠ 0) :
    engineStep s = completePixel s.prev (s.run - 1) s := by
  rw [engineStep_of_atDecodeStep h, decPixelStep, if_pos hrun, continueRun]

theorem engineStep_of_run_eq_zero {s : State} (h : AtDecodeStep s) (hrun : s.run = 0) : engineStep s = chunkStep s := by
  rw [engineStep_of_atDecodeStep h, decPixelStep, if_neg (not_not_intro hrun)]

/-! ## Chunk fetch -/

/-- Bytes that decode to a chunk and leave none over are as many as the leading byte asks for. -/
theorem chunkLen_of_decode {b0 : Byte} {more : List Byte} {i : Instr} (h : decode (b0 :: more) = .chunk i []) :
    chunkLen b0 = more.length + 1 := by
  obtain ⟨hshort, hlong⟩ := decode_answersByLength b0 more
  rw [h] at hshort hlong
  have hle : chunkLen b0 ≤ more.length + 1 := by
    by_contra hlt
    obtain ⟨kind, hrejected⟩ := hshort (Nat.lt_of_not_le hlt)
    cases hrejected
  obtain ⟨_, rest, hchunk, -, -, htotal⟩ := hlong hle
  cases hchunk
  exact htotal.symm

/-- Chunk fetch where the source delivers what the leading byte asks for, bytes read before a wait included. -/
theorem fetchChunk_go {s : State} {b0 : Byte} {more new : List Byte} {rest : List SrcAnswer}
    (hbytes : s.rdBuf ++ new = b0 :: more) (hlen : chunkLen b0 = more.length + 1) (hsrc : s.src = delivers new ++ rest) :
    fetchChunk s = .go (afterReads new rest s) := by
  cases hbuf : s.rdBuf with
  | nil =>
    obtain rfl : new = b0 :: more := by simpa [hbuf] using hbytes
    have hfirst : fill 1 .unexpectedEof s = .go (afterReads [b0] (delivers more ++ rest) s) :=
      fill_go 1 [b0] _ _ s (by simp [hbuf]) (by simpa [delivers] using hsrc)
    rw [fetchChunk, hfirst, Flow.andThen_go, afterReads_rdBuf, hbuf]
    rw [fill_go _ more rest _ _ (by simp [hbuf, hlen, Nat.add_comm]) rfl, afterReads_cons]
  | cons b bs =>
    obtain ⟨rfl, rfl⟩ : b = b0 ∧ bs ++ new = more := by simpa [hbuf] using hbytes
    rw [fetchChunk, fill_enough 1 _ s (by simp [hbuf]), Flow.andThen_go, hbuf]
    exact fill_go _ new rest _ s (by simp [hbuf, hlen]; omega) hsrc

/-- A chunk step whose bytes the source delivers is `exec` of the chunk they decode to. -/
theorem chunkStep_of_decode {s : State} {i : Instr} {new : List Byte} {rest : List SrcAnswer}
    (hsrc : s.src = delivers new ++ rest) (hdecode : decode (s.rdBuf ++ new) = .chunk i []) :
    chunkStep s = exec i (afterReads new rest s) := by
  cases hbytes : s.rdBuf ++ new with
  | nil => simp [hbytes, decode] at hdecode
  | cons b0 more =>
    have hlen : chunkLen b0 = more.length + 1 := chunkLen_of_decode (hbytes ▸ hdecode)
    simp only [chunkStep, fetchChunk_go hbytes hlen hsrc, Flow.settle_go, afterReads_rdBuf, hdecode]

theorem decode_runByte {b0 : Byte} {count : Nat} (hpos : 1 ≤ count) (hmax : count ≤ 62) (hb0 : b0.toNat = 0xC0 + count - 1) :
    decode [b0] = .chunk (.run (BitVec.ofNat 6 count)) [] := by
  obtain ⟨-, -, -, -, -, hrun⟩ := leadingByteKinds b0
  have hkind : kindOf b0 = .run := hrun.2 (by omega)
  have hcount : b0.extractLsb' 0 6 + 1 = BitVec.ofNat 6 count := by
    apply BitVec.eq_of_toNat_eq
    simp
    omega
  simp only [decode, hkind, hcount]

/-! ## Pixels equal to `prev` -/

/-- A pixel equal to `prev` is not committed (rule R199): cache and `prev` stay. -/
theorem afterPixel_prev (run : BitVec 6) (out : List Byte) (rest : List SnkAnswer) (s : State) :
    afterPixel s.prev run out rest s =
      { s with run := run, pixDone := s.pixDone + 1, rdBuf := [], wrCnt := 0, snk := rest, hist := s.hist ++ out.map .wrote } := by
  simp [afterPixel]

/-- Settles O29: a run continuation is a completed pixel step of `prev`, which commits nothing. -/
theorem runContinuationRepeatsPrevious : Obligations.RunContinuationRepeatsPrevious := by
  intro s rest hat hrun hsnk
  have hlower : (s.run - 1).toNat = s.run.toNat - 1 := by bv_omega
  refine ⟨_, ?_, hlower, rfl⟩
  rw [engineStep_of_run_ne_zero hat hrun, completePixel_go _ _ rest s hsnk, afterPixel_prev]

/-- `n` decode pixel steps of a pixel equal to `prev` have completed, and left the run counter at `run`. -/
def afterRepeats (n : Nat) (run : BitVec 6) (rest : List SnkAnswer) (s : State) : State :=
  { s with
    run := run
    pixDone := s.pixDone + BitVec.ofNat 64 n
    rdBuf := []
    wrCnt := 0
    snk := rest
    hist := s.hist ++ (List.replicate n (pixelBytes s.metaChannels s.prev)).flatten.map .wrote }

theorem afterRepeats_zero {s : State} (hbuf : s.rdBuf = []) (hwr : s.wrCnt = 0) : afterRepeats 0 s.run s.snk s = s := by
  cases s
  simp_all [afterRepeats]

theorem afterRepeats_succ (n : Nat) (r run : BitVec 6) (mid rest : List SnkAnswer) (s : State) :
    afterRepeats n run rest (afterRepeats 1 r mid s) = afterRepeats (n + 1) run rest s := by
  have hcount : s.pixDone + BitVec.ofNat 64 1 + BitVec.ofNat 64 n = s.pixDone + BitVec.ofNat 64 (n + 1) := by
    rw [BitVec.add_assoc, ← BitVec.ofNat_add, Nat.add_comm]
  simp only [afterRepeats, hcount, List.replicate_succ, List.replicate_zero, List.flatten_cons, List.flatten_nil,
    List.append_nil, List.map_append, List.append_assoc]

theorem completePixel_prev {s : State} {rest : List SnkAnswer} (run : BitVec 6) (hwr : s.wrCnt = 0)
    (hsnk : s.snk = oks (pixelBytes s.metaChannels s.prev).length ++ rest) :
    completePixel s.prev run s = .next (afterRepeats 1 run rest s) := by
  rw [completePixel_go _ run rest s (by simpa [hwr] using hsnk), afterPixel_prev]
  simp [afterRepeats, hwr]

/-! ## The steps of a run -/

theorem run_succ_of_step {M : Host.Core} {n : Nat} {s t : M.State} (h : M.step s = .next t) : M.run (n + 1) s = M.run n t := by
  rw [Host.Core.run, h]

theorem leads_succ {n : Nat} {s t u : State} (h : step s = .next t) (htu : Leads n t u) : Leads (n + 1) s u :=
  (run_succ_of_step (M := core) h).trans htu

theorem leads_afterRepeats_succ {n : Nat} {r run : BitVec 6} {mid rest : List SnkAnswer} {s t : State}
    (h : step s = .next (afterRepeats 1 r mid t))
    (hrest : Leads n (afterRepeats 1 r mid t) (afterRepeats n run rest (afterRepeats 1 r mid t))) :
    Leads (n + 1) s (afterRepeats (n + 1) run rest t) := by
  rw [← afterRepeats_succ]
  exact leads_succ h hrest

theorem oks_succ_mul (n k : Nat) (rest : List SnkAnswer) : oks ((n + 1) * k) ++ rest = oks k ++ (oks (n * k) ++ rest) := by
  rw [oks, Nat.add_one_mul, Nat.add_comm, List.replicate_add, List.append_assoc]
  rfl

/-- What holds of the engine between two pixel steps of a decode call that no host event disturbs. -/
structure BetweenDecodeSteps (s : State) : Prop where
  phase : s.phase = .body
  mode : s.mode = .dec
  agenda : s.agenda = []
  rdBuf : s.rdBuf = []
  wrCnt : s.wrCnt = 0

theorem BetweenDecodeSteps.atDecodeStep {s : State} {n : Nat} (h : BetweenDecodeSteps s)
    (hleft : s.pixDone.toNat + (n + 1) ≤ s.pixTotal.toNat) : AtDecodeStep s :=
  ⟨h.phase, h.mode, BitVec.lt_def.2 (by omega)⟩

theorem BetweenDecodeSteps.afterRepeats {s : State} (hphase : s.phase = .body) (hmode : s.mode = .dec) (hagenda : s.agenda = [])
    (n : Nat) (run : BitVec 6) (rest : List SnkAnswer) : BetweenDecodeSteps (afterRepeats n run rest s) :=
  ⟨hphase, hmode, hagenda, rfl, rfl⟩

/-- One more pixel done, where the image has pixels left for `n` after it. -/
theorem pixDone_add_one_add_le {done total : BitVec 64} {n : Nat} (h : done.toNat + (n + 1) ≤ total.toNat) :
    (done + 1).toNat + n ≤ total.toNat := by
  bv_omega

theorem step_of_run_ne_zero {s : State} {rest : List SnkAnswer} (h : BetweenDecodeSteps s) (hat : AtDecodeStep s)
    (hrun : s.run ≠ 0) (hsnk : s.snk = oks (pixelBytes s.metaChannels s.prev).length ++ rest) :
    step s = .next (afterRepeats 1 (s.run - 1) rest s) := by
  rw [step_of_agenda_nil h.agenda, engineStep_of_run_ne_zero hat hrun, completePixel_prev _ h.wrCnt hsnk]

/-- `n` steps in a run of at least `n` are `n` run continuations (rule R191). -/
theorem leads_runContinuations {n k : Nat} {s : State} {rest : List SnkAnswer} (h : BetweenDecodeSteps s)
    (hrun : s.run.toNat = k + n) (hleft : s.pixDone.toNat + n ≤ s.pixTotal.toNat)
    (hsnk : s.snk = oks (n * (pixelBytes s.metaChannels s.prev).length) ++ rest) :
    Leads n s (afterRepeats n (BitVec.ofNat 6 k) rest s) := by
  induction n generalizing s with
  | zero =>
    have hk : BitVec.ofNat 6 k = s.run := by bv_omega
    obtain rfl : s.snk = rest := by simpa [oks] using hsnk
    rw [hk, afterRepeats_zero h.rdBuf h.wrCnt]
    rfl
  | succ n ih =>
    have hne : s.run ≠ 0 := by bv_omega
    have hlower : (s.run - 1).toNat = k + n := by bv_omega
    rw [oks_succ_mul] at hsnk
    have hstep := step_of_run_ne_zero h (h.atDecodeStep hleft) hne hsnk
    exact leads_afterRepeats_succ hstep
      (ih (.afterRepeats h.phase h.mode h.agenda 1 _ _) hlower (pixDone_add_one_add_le hleft) rfl)

/-- The step that reads a `RUN` byte outputs the first of its pixels (rule R198). -/
theorem step_of_runByte {s : State} {b0 : Byte} {count : Nat} {rest : List SrcAnswer} {snkRest : List SnkAnswer}
    (h : BetweenDecodeSteps s) (hat : AtDecodeStep s) (hrun : s.run = 0) (hpos : 1 ≤ count) (hmax : count ≤ 62)
    (hb0 : b0.toNat = 0xC0 + count - 1) (hsrc : s.src = .byte b0 :: rest)
    (hsnk : s.snk = oks (pixelBytes s.metaChannels s.prev).length ++ snkRest) :
    step s = .next (afterRepeats 1 (BitVec.ofNat 6 count - 1) snkRest (afterReads [b0] rest s)) := by
  have hdecode : decode (s.rdBuf ++ [b0]) = .chunk (.run (BitVec.ofNat 6 count)) [] := by
    rw [h.rdBuf, List.nil_append, decode_runByte hpos hmax hb0]
  have hwf : (Instr.run (BitVec.ofNat 6 count)).wellFormed = true := (runCountOk_iff _).2 (by simp; omega)
  rw [step_of_agenda_nil h.agenda, engineStep_of_run_eq_zero hat hrun, chunkStep_of_decode (by simpa [delivers] using hsrc) hdecode,
    exec_eq _ _ hwf]
  exact completePixel_prev (s := afterReads [b0] rest s) _ h.wrCnt hsnk

/-- Settles O30: the step that reads the byte, then `n - 1` run continuations. -/
theorem runChunkYieldsCountPixels : Obligations.RunChunkYieldsCountPixels := by
  intro s b0 count n rest snkRest hphase hmode hrun hbuf hwr hagenda hn hle hmax hb0 hsrc hleft hsnk
  obtain ⟨m, rfl⟩ : ∃ m, n = m + 1 := ⟨n - 1, by omega⟩
  have hbetween : BetweenDecodeSteps s := ⟨hphase, hmode, hagenda, hbuf, hwr⟩
  have hat : AtDecodeStep s := hbetween.atDecodeStep hleft
  rw [oks_succ_mul] at hsnk
  have hstep := step_of_runByte hbetween hat hrun (by omega) hmax hb0 hsrc hsnk
  have hcount : (BitVec.ofNat 6 count - 1).toNat = count - (m + 1) + m := by bv_omega
  have hleads := leads_afterRepeats_succ hstep
    (leads_runContinuations (.afterRepeats (s := afterReads [b0] rest s) hphase hmode hagenda 1 _ _) hcount
      (pixDone_add_one_add_le hleft) rfl)
  have hdone : BitVec.ofNat 64 (s.pixDone.toNat + (m + 1)) = s.pixDone + BitVec.ofNat 64 (m + 1) := by
    rw [BitVec.ofNat_add, BitVec.ofNat_toNat, BitVec.setWidth_eq]
  simpa [afterRepeats, afterReads, hbuf, hwr, hdone] using hleads

end Sys2Proof
end

section
/-! Chunk fields as numbers: fields set side by side (rule R222) and a field cut out of a byte; from them the bytes of every
well-formed Op (rules R222 to R227) and the fields of the one-byte chunks (rules R229, R230, R234). -/

namespace Sys2Proof

/-! ## Fields and bytes -/

/-- A field set before `n` bits counts `2 ^ n` times. -/
theorem toNat_fieldAppend {m n : Nat} (x : BitVec m) (y : BitVec n) : (x ++ y).toNat = x.toNat * 2 ^ n + y.toNat := by
  rw [BitVec.toNat_append, ← Nat.shiftLeft_add_eq_or_of_lt y.isLt, Nat.shiftLeft_eq]

theorem toNat_fieldExtract {w : Nat} (b : BitVec w) (lo n : Nat) : (b.extractLsb' lo n).toNat = b.toNat / 2 ^ lo % 2 ^ n := by
  rw [BitVec.extractLsb'_toNat, Nat.shiftRight_eq_div_pow]

/-! ## The bytes of every Op -/

theorem toNat_indexByte (idx : BitVec 6) : (0b00#2 ++ idx).toNat = idx.toNat := by
  rw [toNat_fieldAppend]
  exact Nat.zero_add _

theorem toNat_colorByte (dr dg db : BitVec 2) :
    (0b01#2 ++ dr ++ dg ++ db).toNat = 0x40 + 16 * dr.toNat + 4 * dg.toNat + db.toNat := by
  simp only [toNat_fieldAppend, BitVec.toNat_ofNat]
  omega

theorem toNat_lumaLeadingByte (dg : BitVec 6) : (0b10#2 ++ dg).toNat = 0x80 + dg.toNat := by
  rw [toNat_fieldAppend]
  rfl

theorem toNat_lumaSecondByte (drg dbg : BitVec 4) : (drg ++ dbg).toNat = 16 * drg.toNat + dbg.toNat := by
  simp only [toNat_fieldAppend]
  omega

/-- The count is stored with bias 1 (rule R94). -/
theorem toNat_runByte {count : BitVec 6} (hpos : 1 ≤ count.toNat) : (0b11#2 ++ (count - 1)).toNat = 0xC0 + count.toNat - 1 := by
  have hbias : (count - 1).toNat = count.toNat - 1 := by bv_omega
  rw [toNat_fieldAppend, hbias]
  exact (Nat.add_sub_assoc hpos 0xC0).symm

theorem encode_run_of_countOk {count : BitVec 6} (h : runCountOk count = true) :
    encode (.run count) = some [0b11#2 ++ (count - 1)] :=
  if_pos h

/-- Settles O6: the bytes as `encode` writes them, each read as a number; a count of 63 fails the range check. -/
theorem opEncodeBytes : Obligations.OpEncodeBytes := by
  refine ⟨?index, ?color, ?luma, fun _ _ _ => rfl, fun _ _ _ _ => rfl, ?run, rfl⟩
  case index => exact fun idx => ⟨_, rfl, toNat_indexByte idx⟩
  case color => exact fun dr dg db => ⟨_, rfl, toNat_colorByte dr dg db⟩
  case luma => exact fun dg drg dbg => ⟨_, _, rfl, toNat_lumaLeadingByte dg, toNat_lumaSecondByte drg dbg⟩
  case run =>
    intro count hpos hmax
    exact ⟨_, encode_run_of_countOk ((runCountOk_iff count).2 ⟨hpos, hmax⟩), toNat_runByte hpos⟩

/-! ## The fields of the one-byte chunks -/

theorem decode_of_kindOf_index {b0 : Byte} (rest : List Byte) (h : kindOf b0 = .index) :
    decode (b0 :: rest) = .chunk (.index (b0.extractLsb' 0 6)) rest := by
  simp only [decode, h]

theorem decode_of_kindOf_color {b0 : Byte} (rest : List Byte) (h : kindOf b0 = .color) :
    decode (b0 :: rest) = .chunk (.color (b0.extractLsb' 4 2) (b0.extractLsb' 2 2) (b0.extractLsb' 0 2)) rest := by
  simp only [decode, h]

theorem decode_of_kindOf_run {b0 : Byte} (rest : List Byte) (h : kindOf b0 = .run) :
    decode (b0 :: rest) = .chunk (.run (b0.extractLsb' 0 6 + 1)) rest := by
  simp only [decode, h]

/-- Settles O4: the range fixes the kind (O2), and each field is its bits of the byte. -/
theorem oneByteChunksDecode : Obligations.OneByteChunksDecode := by
  intro b0 rest
  obtain ⟨-, -, hindex, hcolor, -, hrun⟩ := leadingByteKinds b0
  refine ⟨fun h => ⟨_, decode_of_kindOf_index rest (hindex.2 h), ?_⟩,
    fun h => ⟨_, _, _, decode_of_kindOf_color rest (hcolor.2 h), ?_⟩,
    fun h => ⟨_, decode_of_kindOf_run rest (hrun.2 h), ?_⟩⟩
  · rw [toNat_fieldExtract]
    omega
  · simp only [toNat_fieldExtract]
    omega
  · simp only [BitVec.toNat_add, toNat_fieldExtract, BitVec.ofNat_eq_ofNat, BitVec.toNat_ofNat]
    omega

end Sys2Proof
end

section
/-! The headers (rules R252, R253, R257 to R260): what an encode header refuses, what it writes, and what the decode header
reads back from these bytes, field by field. -/

namespace Sys2Proof

open Machine

theorem channelsOk_iff (c : Byte) : channelsOk c = true ↔ c = 3 ∨ c = 4 := by
  simp [channelsOk]

theorem colorspaceOk_iff (c : Byte) : colorspaceOk c = true ↔ c = 0 ∨ c = 1 := by
  simp [colorspaceOk]

/-! ## The encode header -/

theorem engineStep_of_encHeader {s : State} (hphase : s.phase = .header) (hmode : s.mode = .enc) :
    engineStep s = encHeader s := by
  simp [engineStep, headerStep, hphase, hmode]

/-- An error raised in an encode call before any port operation reports its kind and byte and leaves `META_*` and the ports. -/
theorem errorReported_errorEntry (e : CoreError) {s : State} (hmode : s.mode = .enc) :
    ErrorReported e.kind e.byte s.src s.snk [] s (errorEntry e s) where
  phase := rfl
  kind := rfl
  byte := rfl
  mode := rfl
  meta_kept _ := by simp [hmode]
  src := rfl
  snk := rfl
  hist := by simp
  agenda := rfl

/-- Settles O37: the channel check stands before the colorspace check, and both before the first write. -/
theorem encodeHeaderRefusesIllegalMetadata : Obligations.EncodeHeaderRefusesIllegalMetadata := by
  intro s hphase hmode
  rw [engineStep_of_encHeader hphase hmode]
  constructor
  · rintro ⟨hne3, hne4⟩
    have hbad : channelsOk s.metaChannels = false :=
      Bool.eq_false_iff.2 fun hok => ((channelsOk_iff _).1 hok).elim hne3 hne4
    exact ⟨_, if_pos hbad, errorReported_errorEntry .invalidHeader hmode⟩
  · rintro hch ⟨hne0, hne1⟩
    have hgood : ¬channelsOk s.metaChannels = false := by simp [(channelsOk_iff _).2 hch]
    have hbad : colorspaceOk s.metaColorspace = false :=
      Bool.eq_false_iff.2 fun hok => ((colorspaceOk_iff _).1 hok).elim hne0 hne1
    exact ⟨_, (if_neg hgood).trans (if_pos hbad), errorReported_errorEntry (.invalidColorspace s.metaColorspace) hmode⟩

/-- Legal arguments, and a sink that accepts: the header bytes are written and the body is entered (rule R253). -/
theorem encHeader_go {s : State} {rest : List SnkAnswer} (hch : channelsOk s.metaChannels = true)
    (hcs : colorspaceOk s.metaColorspace = true) (hwr : s.wrCnt = 0) (hsnk : s.snk = oks 14 ++ rest) :
    encHeader s = .next (enterBody
      (afterWrites (headerBytes s.metaWidth s.metaHeight s.metaChannels s.metaColorspace) rest s)) := by
  have hdrain := drain_go (headerBytes s.metaWidth s.metaHeight s.metaChannels s.metaColorspace) rest s
    (by rw [hwr]; exact hsnk)
  rw [hwr, List.drop_zero] at hdrain
  simp [encHeader, hch, hcs, hdrain]

/-! ## The decode header -/

theorem delivers_append (xs ys : List Byte) : delivers (xs ++ ys) = delivers xs ++ delivers ys :=
  List.map_append

/-- The four bytes of a word, read most significant first, are the word (rule R58). -/
theorem wordAt_append_wordBytes (pre post : List Byte) (v : BitVec 32) : wordAt (pre ++ (wordBytes v ++ post)) pre.length = v := by
  have hjoin : v.extractLsb' 24 8 ++ v.extractLsb' 16 8 ++ v.extractLsb' 8 8 ++ v.extractLsb' 0 8 = v := by
    apply BitVec.eq_of_toNat_eq
    simp only [toNat_fieldAppend, toNat_fieldExtract]
    omega
  simpa [wordAt, wordBytes] using hjoin

theorem decMagic_go {s : State} {rest : List SrcAnswer} (hbuf : s.rdBuf = []) (hsrc : s.src = delivers Config.magic ++ rest) :
    decMagic s = .go (afterReads Config.magic rest s) := by
  rw [decMagic, fill_go 4 Config.magic rest _ s (by simp [hbuf, Config.magic]) hsrc, Flow.andThen_go, if_pos]
  simp [hbuf, Config.magic]

theorem decDimensions_go {s : State} {w h : BitVec 32} {rest : List SrcAnswer} (hbuf : s.rdBuf.length = 4)
    (hsrc : s.src = delivers (wordBytes w ++ wordBytes h) ++ rest) :
    decDimensions s = .go { afterReads (wordBytes w ++ wordBytes h) rest s with metaWidth := w, metaHeight := h } := by
  have hwidth : wordAt (s.rdBuf ++ wordBytes w) 4 = w := by
    simpa [hbuf] using wordAt_append_wordBytes s.rdBuf [] w
  have hheight : wordAt (s.rdBuf ++ (wordBytes w ++ wordBytes h)) 8 = h := by
    simpa [hbuf, wordBytes] using wordAt_append_wordBytes (s.rdBuf ++ wordBytes w) [] h
  rw [delivers_append, List.append_assoc] at hsrc
  rw [decDimensions, fill_go 8 (wordBytes w) _ _ s (by simp [hbuf, wordBytes]) hsrc, Flow.andThen_go, afterReads_rdBuf, hwidth,
    fill_go 12 (wordBytes h) rest _ _ (by simp [hbuf, wordBytes]) rfl, Flow.andThen_go]
  simp [afterReads, hheight]

theorem decChannels_go {s : State} {ch : Byte} {rest : List SrcAnswer} (hbuf : s.rdBuf.length = 12)
    (hsrc : s.src = delivers [ch] ++ rest) (hch : channelsOk ch = true) :
    decChannels s = .go { afterReads [ch] rest s with metaChannels := ch } := by
  have hread : (s.rdBuf ++ [ch]).getD 12 0 = ch := by simp [← hbuf]
  rw [decChannels, fill_go 13 [ch] rest _ s (by simp [hbuf]) hsrc, Flow.andThen_go, afterReads_rdBuf, hread, if_pos hch]
  rfl

theorem decColorspace_go {s : State} {cs : Byte} {rest : List SrcAnswer} (hbuf : s.rdBuf.length = 13)
    (hsrc : s.src = delivers [cs] ++ rest) (hcs : colorspaceOk cs = true) :
    decColorspace s = .go { afterReads [cs] rest s with metaColorspace := cs } := by
  have hread : (s.rdBuf ++ [cs]).getD 13 0 = cs := by simp [← hbuf]
  rw [decColorspace, fill_go 14 [cs] rest _ s (by simp [hbuf]) hsrc, Flow.andThen_go, afterReads_rdBuf, hread, if_pos hcs]
  rfl

theorem engineStep_of_decHeader {s : State} (hphase : s.phase = .header) (hmode : s.mode = .dec) :
    engineStep s = decHeader s := by
  simp [engineStep, headerStep, hphase, hmode]

/-- The bytes of a legal header fill the four registers and enter the body. -/
theorem decHeader_go {s : State} {w h : BitVec 32} {ch cs : Byte} {rest : List SrcAnswer} (hch : channelsOk ch = true)
    (hcs : colorspaceOk cs = true) (hbuf : s.rdBuf = []) (hsrc : s.src = delivers (headerBytes w h ch cs) ++ rest) :
    decHeader s = .next (enterBody { afterReads (headerBytes w h ch cs) rest s with
      metaWidth := w, metaHeight := h, metaChannels := ch, metaColorspace := cs }) := by
  have hfields : s.src = delivers Config.magic ++ (delivers (wordBytes w ++ wordBytes h) ++ (delivers [ch] ++ (delivers [cs] ++ rest))) := by
    simpa [headerBytes, delivers] using hsrc
  rw [decHeader, decMagic_go hbuf hfields, Flow.andThen_go, decDimensions_go (by simp [hbuf, Config.magic]) rfl, Flow.andThen_go,
    decChannels_go (by simp [hbuf, Config.magic, wordBytes]) rfl hch, Flow.andThen_go,
    decColorspace_go (by simp [hbuf, Config.magic, wordBytes]) rfl hcs, Flow.settle_go]
  simp [afterReads, headerBytes]

end Sys2Proof
end

section
/-! What the encoder selects, the decoder resolves back: a chunk's bytes decode to it (rule R235), a difference is undone
(rule R124), and in the same codec state the selected chunk stands for the pixel it was selected for (rule R145). -/

namespace Sys2Proof

open Machine

/-! ## Chunks and their bytes -/

theorem encode_run_eq_some {count : BitVec 6} {bytes : List Byte} (h : encode (.run count) = some bytes) :
    runCountOk count = true ∧ bytes = [0b11#2 ++ (count - 1)] := by
  rw [encode] at h
  split at h
  · next hok => exact ⟨hok, by simpa using h.symm⟩
  · cases h

/-- The bits of a byte that are a field, by the byte's number. -/
theorem extractLsb'_eq_field {n lo : Nat} {b : Byte} {f : BitVec n} (h : b.toNat / 2 ^ lo % 2 ^ n = f.toNat) :
    b.extractLsb' lo n = f :=
  BitVec.eq_of_toNat_eq ((toNat_fieldExtract b lo n).trans h)

/-- The bytes of an Op decode to it, and what follows them is left over. -/
theorem decode_append_of_encode {i : Instr} {bytes : List Byte} (rest : List Byte) (h : encode i = some bytes) :
    decode (bytes ++ rest) = .chunk i rest := by
  cases i with
  | rgb r g b => cases h; rfl
  | rgba r g b a => cases h; rfl
  | index idx =>
    cases h
    have hnum := toNat_indexByte idx
    obtain ⟨-, -, hindex, -, -, -⟩ := leadingByteKinds (0b00#2 ++ idx)
    have hidx : (0b00#2 ++ idx).extractLsb' 0 6 = idx := extractLsb'_eq_field (by omega)
    exact (decode_of_kindOf_index rest (hindex.2 (by omega))).trans (by rw [hidx])
  | color dr dg db =>
    cases h
    have hnum := toNat_colorByte dr dg db
    obtain ⟨-, -, -, hcolor, -, -⟩ := leadingByteKinds (0b01#2 ++ dr ++ dg ++ db)
    have hdr : (0b01#2 ++ dr ++ dg ++ db).extractLsb' 4 2 = dr := extractLsb'_eq_field (by omega)
    have hdg : (0b01#2 ++ dr ++ dg ++ db).extractLsb' 2 2 = dg := extractLsb'_eq_field (by omega)
    have hdb : (0b01#2 ++ dr ++ dg ++ db).extractLsb' 0 2 = db := extractLsb'_eq_field (by omega)
    exact (decode_of_kindOf_color rest (hcolor.2 (by omega))).trans (by rw [hdr, hdg, hdb])
  | luma dg drg dbg =>
    cases h
    have hnum0 := toNat_lumaLeadingByte dg
    have hnum1 := toNat_lumaSecondByte drg dbg
    obtain ⟨-, -, -, -, hluma, -⟩ := leadingByteKinds (0b10#2 ++ dg)
    have hdg : (0b10#2 ++ dg).extractLsb' 0 6 = dg := extractLsb'_eq_field (by omega)
    have hdrg : (drg ++ dbg).extractLsb' 4 4 = drg := extractLsb'_eq_field (by omega)
    have hdbg : (drg ++ dbg).extractLsb' 0 4 = dbg := extractLsb'_eq_field (by omega)
    simp only [List.cons_append, decode, hluma.2 (by omega), List.nil_append, decodeLuma, hdg, hdrg, hdbg]
  | run count =>
    obtain ⟨hok, rfl⟩ := encode_run_eq_some h
    obtain ⟨hpos, hmax⟩ := (runCountOk_iff count).1 hok
    have hnum := toNat_runByte hpos
    obtain ⟨-, -, -, -, -, hrun⟩ := leadingByteKinds (0b11#2 ++ (count - 1))
    have hcount : (0b11#2 ++ (count - 1)).extractLsb' 0 6 = count - 1 := extractLsb'_eq_field (by bv_omega)
    exact (decode_of_kindOf_run rest (hrun.2 (by omega))).trans (by rw [hcount, BitVec.sub_add_cancel])

/-! ## Differences undone -/

/-- A field that holds a signed delta plus a bias, the bias taken off again. -/
theorem setWidth_sub_bias {n : Nat} {f : BitVec n} {v k : Byte} (hn : n ≤ 8) (hk : k.toNat ≤ 128)
    (h : v.toInt + k.toNat = f.toNat) : f.setWidth 8 - k = v := by
  have hf : (f.setWidth 8).toNat = f.toNat := by
    rw [BitVec.toNat_setWidth, Nat.mod_eq_of_lt (f.isLt.trans_le (Nat.pow_le_pow_right (by decide) hn))]
  have hadd : ((add8 v k).toNat : Int) = v.toInt + k.toNat := add8_toNat_of_bias_le hk (by omega)
  have heq : f.setWidth 8 = add8 v k := BitVec.eq_of_toNat_eq (by omega)
  rw [heq, add8, BitVec.add_sub_cancel]

theorem resolved_color_of_diff {s : State} {p : Pixel} {dr dg db : BitVec 2} (h : diff p s.prev = some (.color dr dg db)) :
    resolved s (.color dr dg db) = p := by
  obtain ⟨ha, hr, hg, hb⟩ := (colorDifferenceExactly p s.prev dr dg db).1 h
  have hbias (v : Byte) (f : BitVec 2) (hv : v.toInt + 2 = f.toNat) : f.setWidth 8 - 2 = v :=
    setWidth_sub_bias (k := 2) (by decide) (by decide) hv
  rw [resolved, hbias _ _ hr, hbias _ _ hg, hbias _ _ hb, ← ha]
  simp

theorem resolved_luma_of_diff {s : State} {p : Pixel} {dg : BitVec 6} {drg dbg : BitVec 4}
    (h : diff p s.prev = some (.luma dg drg dbg)) : resolved s (.luma dg drg dbg) = p := by
  obtain ⟨ha, -, hg, hr, hb⟩ := (lumaDifferenceExactly p s.prev dg drg dbg).1 h
  have hgreen : dg.setWidth 8 - 32 = p.g - s.prev.g := setWidth_sub_bias (k := 32) (by decide) (by decide) hg
  have hbias (v : Byte) (f : BitVec 4) (hv : v.toInt + 8 = f.toNat) : f.setWidth 8 - 8 = v :=
    setWidth_sub_bias (k := 8) (by decide) (by decide) hv
  rw [resolved, hgreen, hbias _ _ hr, hbias _ _ hb, ← ha]
  simp

/-! ## The selected chunk -/

theorem resolved_missOp (s : State) (p : Pixel) : resolved s (missOp p s.prev) = p := by
  unfold missOp
  split
  · next dr dg db h => exact resolved_color_of_diff h
  · next dg drg dbg h => exact resolved_luma_of_diff h
  · split
    · next ha => rw [resolved, ← ha]
    · rfl

/-- The chunk selected for a pixel is an `INDEX` or one for a miss, and the cache after it is the one an insertion leaves. -/
theorem selectOp_cases (c : Slots) (p prev : Pixel) :
    (lookup c (pixelHash p) = p ∧ selectOp c p prev = (.index (pixelHash p), cacheInsert c p)) ∨
    selectOp c p prev = (missOp p prev, cacheInsert c p) := by
  rcases cacheMatchOrReplace_cases c p with ⟨hhit, heq⟩ | ⟨-, heq⟩
  · exact .inl ⟨hhit, by rw [selectOp, heq, cacheInsert_of_hit c p hhit]⟩
  · exact .inr (by rw [selectOp, heq])

theorem selectOp_cache (c : Slots) (p prev : Pixel) : (selectOp c p prev).2 = cacheInsert c p := by
  rcases selectOp_cases c p prev with ⟨-, heq⟩ | heq <;> rw [heq]

theorem resolved_selectOp (s : State) (p : Pixel) : resolved s (selectOp s.cache p s.prev).1 = p := by
  rcases selectOp_cases s.cache p s.prev with ⟨hhit, heq⟩ | heq <;> rw [heq]
  · exact hhit
  · exact resolved_missOp s p

theorem missOp_ne_run (p prev : Pixel) (count : BitVec 6) : missOp p prev ≠ .run count := by
  unfold missOp
  split
  · exact nofun
  · exact nofun
  · split <;> exact nofun

theorem selectOp_ne_run (c : Slots) (p prev : Pixel) (count : BitVec 6) : (selectOp c p prev).1 ≠ .run count := by
  rcases selectOp_cases c p prev with ⟨-, heq⟩ | heq <;> rw [heq]
  · exact nofun
  · exact missOp_ne_run p prev count

theorem wellFormed_of_ne_run {i : Instr} (h : ∀ count, i ≠ .run count) : i.wellFormed = true := by
  cases i with
  | run count => exact absurd rfl (h count)
  | _ => rfl

/-- A chunk other than a `RUN` has bytes, five at most. -/
theorem encode_of_ne_run {i : Instr} (h : ∀ count, i ≠ .run count) : ∃ bytes, encode i = some bytes ∧ bytes.length ≤ 5 := by
  cases i with
  | run count => exact absurd rfl (h count)
  | _ => exact ⟨_, rfl, by simp⟩

end Sys2Proof
end

section
/-! The bytes of an encoded body (rules R160 to R172): what the plan of each pixel is while the run is legal, and the bytes
the plans of a list of pixels come to, the run open at the end included. -/

namespace Sys2Proof

open Machine

theorem openRunBytes_of_le {run : BitVec 6} (h : run.toNat ≤ 62) : ∃ o, openRunBytes run = some o ∧ o.length ≤ 1 := by
  by_cases h0 : run = 0
  · exact ⟨[], if_pos h0, by simp⟩
  · have hok : runCountOk run = true := (runCountOk_iff run).2 ⟨by bv_omega, h⟩
    exact ⟨_, (if_neg h0).trans (encode_run_of_countOk hok), by simp⟩

/-- What a changed pixel is encoded as: the open run `o`, then the bytes of the selected chunk. -/
theorem encPlan_of_ne {c : Slots} {run : BitVec 6} {p prev : Pixel} {o bytes : List Byte} (hne : p ≠ prev)
    (ho : openRunBytes run = some o) (hbytes : encode (selectOp c p prev).1 = some bytes) :
    encPlan c run p prev = some ⟨o ++ bytes, 0, cacheInsert c p⟩ := by
  rw [encPlan, if_neg hne]
  simp only [planChange, ho, hbytes, selectOp_cache]

/-- The plans a legal run counter allows: a repeated pixel extends the run, or makes it the longest one and closes it; a
changed pixel closes it first. -/
theorem encPlan_cases (c : Slots) {run : BitVec 6} (p prev : Pixel) (h : run.toNat ≤ 61) :
    (p = prev ∧ run.toNat < 61 ∧ encPlan c run p prev = some ⟨[], run + 1, c⟩) ∨
    (p = prev ∧ ∃ o, openRunBytes (run + 1) = some o ∧ o.length ≤ 1 ∧ encPlan c run p prev = some ⟨o, 0, c⟩) ∨
    (p ≠ prev ∧ ∃ o bytes, openRunBytes run = some o ∧ o.length ≤ 1 ∧ encode (selectOp c p prev).1 = some bytes ∧
      bytes.length ≤ 5 ∧ encPlan c run p prev = some ⟨o ++ bytes, 0, cacheInsert c p⟩) := by
  by_cases hp : p = prev
  · subst hp
    rw [encPlan_self]
    by_cases hlt : run.toNat < 61
    · exact .inl ⟨rfl, hlt, planRepeat_of_lt c hlt⟩
    · obtain rfl : run = 61 := BitVec.eq_of_toNat_eq (by simp; omega)
      exact .inr (.inl ⟨rfl, [0xFD], rfl, le_rfl, planRepeat_61 c⟩)
  · obtain ⟨o, ho, hlen⟩ := openRunBytes_of_le (run := run) (by omega)
    obtain ⟨bytes, hbytes, hlen'⟩ := encode_of_ne_run (selectOp_ne_run c p prev)
    exact .inr (.inr ⟨hp, o, bytes, ho, hlen, hbytes, hlen', encPlan_of_ne hp ho hbytes⟩)

/-- Encoding the pixels `ps` from a codec state on, and then the run still open, writes these bytes. -/
inductive EncodesTo : Slots → BitVec 6 → Pixel → List Pixel → List Byte → Prop where
  | nil {c : Slots} {run : BitVec 6} {prev : Pixel} {o : List Byte} (hopen : openRunBytes run = some o) :
    EncodesTo c run prev [] o
  | cons {c : Slots} {run : BitVec 6} {prev p : Pixel} {ps : List Pixel} {plan : EncPlan} {bs : List Byte}
    (hplan : encPlan c run p prev = some plan) (hrest : EncodesTo plan.cache plan.run p ps bs) :
    EncodesTo c run prev (p :: ps) (plan.out ++ bs)

/-- A legal run counter stays legal, so every list of pixels has its bytes: at most six a pixel and one for the last run. -/
theorem exists_encodesTo (ps : List Pixel) (c : Slots) {run : BitVec 6} (prev : Pixel) (h : run.toNat ≤ 61) :
    ∃ bs, EncodesTo c run prev ps bs ∧ bs.length ≤ 6 * ps.length + 1 := by
  induction ps generalizing c run prev with
  | nil =>
    obtain ⟨o, ho, hlen⟩ := openRunBytes_of_le (run := run) (by omega)
    exact ⟨o, .nil ho, by simpa using hlen⟩
  | cons p ps ih =>
    obtain ⟨plan, hplan, hrun, hlen⟩ : ∃ plan, encPlan c run p prev = some plan ∧ plan.run.toNat ≤ 61 ∧ plan.out.length ≤ 6 := by
      rcases encPlan_cases c p prev h with ⟨-, hlt, hplan⟩ | ⟨-, o, -, ho, hplan⟩ | ⟨-, o, bytes, -, ho, -, hbytes, hplan⟩
      · exact ⟨_, hplan, by bv_omega, by simp⟩
      · exact ⟨_, hplan, by simp, by simp; omega⟩
      · exact ⟨_, hplan, by simp, by simp; omega⟩
    obtain ⟨bs, hbs, hbound⟩ := ih plan.cache p hrun
    exact ⟨plan.out ++ bs, .cons hplan hbs, by simp; omega⟩

end Sys2Proof
end

section
/-! Calls that run to their end: steps put together, the last step of every call, the flush, and what is known of a call between
two pixel steps. -/

namespace Sys2Proof

open Machine

theorem run_add_of_run {M : Host.Core} {m : Nat} {s t : M.State} (n : Nat) (h : M.run m s = .next t) :
    M.run (m + n) s = M.run n t := by
  induction m generalizing s with
  | zero =>
    obtain rfl : s = t := Host.Outcome.next.inj h
    rw [Nat.zero_add]
  | succ m ih =>
    rw [Host.Core.run] at h
    cases hstep : M.step s with
    | next v =>
      rw [hstep] at h
      rw [Nat.add_right_comm, run_succ_of_step hstep, ih h]
    | fault r => rw [hstep] at h; cases h
    | refused r => rw [hstep] at h; cases h

theorem leads_trans {m n : Nat} {s t u : State} (h : Leads m s t) (htu : Leads n t u) : Leads (m + n) s u :=
  (run_add_of_run (M := core) n h).trans htu

theorem leads_of_step {s t : State} (h : step s = .next t) : Leads 1 s t :=
  leads_succ h rfl

theorem sinkBytes_append (xs ys : List PortEvent) : sinkBytes (xs ++ ys) = sinkBytes xs ++ sinkBytes ys :=
  List.filterMap_append

@[simp] theorem sinkBytes_wrote (bs : List Byte) : sinkBytes (bs.map .wrote) = bs := by
  simp [sinkBytes, List.filterMap_map]

@[simp] theorem sinkBytes_readByte (bs : List Byte) : sinkBytes (bs.map .readByte) = [] := by
  simp [sinkBytes]

theorem oks_eq_append {n k : Nat} (h : n ≤ k) : oks k = oks n ++ oks (k - n) := by
  rw [oks, oks, oks, List.replicate_append_replicate, Nat.add_sub_cancel' h]

/-- The sink accepts what a step writes, nothing of it written before. -/
theorem drain_of_oks {s : State} {out : List Byte} {k : Nat} (hwr : s.wrCnt = 0) (hsnk : s.snk = oks k) (hk : out.length ≤ k) :
    drain out s = .go (afterWrites out (oks (k - out.length)) s) := by
  have hdrain := drain_go out (oks (k - out.length)) s (by rw [hwr, List.drop_zero, hsnk, oks_eq_append hk])
  rwa [hwr, List.drop_zero] at hdrain

/-- What the four `META_*` registers hold (rules R33 to R36). -/
structure MetaValues where
  width : BitVec 32
  height : BitVec 32
  channels : Byte
  colorspace : Byte

def metaValues (s : State) : MetaValues := ⟨s.metaWidth, s.metaHeight, s.metaChannels, s.metaColorspace⟩

/-- From `s` the call comes to its end in `DONE` with these `META_*` registers; until then the sink accepts `out`, and the
answers `rest` are left of the source. -/
def Completes (v : MetaValues) (out : List Byte) (rest : List SrcAnswer) (s : State) : Prop :=
  ∃ n t h, Leads n s t ∧ t.phase = .done ∧ metaValues t = v ∧ t.src = rest ∧ t.hist = s.hist ++ h ∧ sinkBytes h = out

/-- A call completes from `s` if steps lead from `s` to where it completes from, and writes first what these steps write. -/
theorem Completes.of_leads {v : MetaValues} {out out' : List Byte} {rest : List SrcAnswer} {n : Nat}
    {s s' : State} {events : List PortEvent} (hleads : Leads n s s') (hhist : s'.hist = s.hist ++ events)
    (hout : sinkBytes events ++ out = out') (h : Completes v out rest s') : Completes v out' rest s := by
  obtain ⟨m, t, events', hleads', hdone, hvalues, hsrc, hhist', hsink⟩ := h
  refine ⟨n + m, t, events ++ events', leads_trans hleads hleads', hdone, hvalues, hsrc, ?_, ?_⟩
  · rw [hhist', hhist, List.append_assoc]
  · rw [sinkBytes_append, hsink, hout]

/-- A step without a port operation leaves it to the steps after it what the call writes. -/
theorem Completes.of_silentStep {v : MetaValues} {out : List Byte} {rest : List SrcAnswer} {s s' : State}
    (hstep : step s = .next s') (hhist : s'.hist = s.hist) (h : Completes v out rest s') : Completes v out rest s :=
  .of_leads (events := []) (leads_of_step hstep) (by rw [hhist, List.append_nil]) rfl h

theorem completes_of_done {s : State} (h : s.phase = .done) : Completes (metaValues s) [] s.src s :=
  ⟨0, s, [], rfl, h, rfl, rfl, by simp, rfl⟩

/-- A flush that the sink answers ends the call and writes no byte (rules R55, R255, R262). -/
theorem completes_of_flush {s : State} {rest : List SnkAnswer} (hphase : s.phase = .flush) (hagenda : s.agenda = [])
    (hsnk : s.snk = .ok :: rest) : Completes (metaValues s) [] s.src s := by
  have hstep : step s = .next (endStep { s with snk := rest, hist := s.hist ++ [.flushed], phase := .done }) := by
    rw [step_of_agenda_nil hagenda]
    simp [engineStep, hphase, flushStep, snkFlush, hsnk]
  exact .of_leads (leads_of_step hstep) rfl rfl (completes_of_done rfl)

/-- The body of a call, between two pixel steps that no host event disturbs: the `META_*` registers, the codec state, the
pixels left, the answers to come of the source and how many of a sink that accepts. -/
structure BodyAt (m : Mode) (v : MetaValues) (c : Slots) (run : BitVec 6) (prev : Pixel) (left : Nat) (src : List SrcAnswer)
    (k : Nat) (s : State) : Prop where
  phase : s.phase = .body
  mode : s.mode = m
  agenda : s.agenda = []
  rdBuf : s.rdBuf = []
  wrCnt : s.wrCnt = 0
  values : metaValues s = v
  cache : s.cache = c
  run : s.run = run
  prev : s.prev = prev
  left : s.pixDone.toNat + left = s.pixTotal.toNat
  src : s.src = src
  snk : s.snk = oks k

theorem BodyAt.pixDone_lt {m : Mode} {v : MetaValues} {c : Slots} {run : BitVec 6} {prev : Pixel} {left : Nat}
    {src : List SrcAnswer} {k : Nat} {s : State} (h : BodyAt m v c run prev (left + 1) src k s) : s.pixDone < s.pixTotal :=
  BitVec.lt_def.2 (by have := h.left; omega)

theorem BodyAt.pixDone_eq {m : Mode} {v : MetaValues} {c : Slots} {run : BitVec 6} {prev : Pixel} {src : List SrcAnswer}
    {k : Nat} {s : State} (h : BodyAt m v c run prev 0 src k s) : s.pixDone = s.pixTotal :=
  BitVec.eq_of_toNat_eq h.left

/-- `n` more pixels done, where the image has `left` pixels after them. -/
theorem toNat_pixDone_add {done total : BitVec 64} {left n : Nat} (h : done.toNat + (left + n) = total.toNat) :
    (done + BitVec.ofNat 64 n).toNat + left = total.toNat := by
  have := total.isLt
  simp only [BitVec.toNat_add, BitVec.toNat_ofNat]
  omega

end Sys2Proof
end

section
/-! The body and the end of an encode call whose ports answer (rules R160 to R172, R254, R255): a pixel step for each pixel, then
the open run with the trailer, and the flush. -/

namespace Sys2Proof

open Machine

section

variable {v : MetaValues} {c : Slots} {run : BitVec 6} {prev : Pixel} {src : List SrcAnswer} {k : Nat} {s : State}

/-- The open run and the trailer, then the flush (rules R172, R255). -/
theorem encodeFinish_completes {o : List Byte} (hphase : s.phase = .trailer) (hagenda : s.agenda = [])
    (hwr : s.wrCnt = 0) (hopen : openRunBytes s.run = some o) (hsnk : s.snk = oks k) (hk : o.length + 9 ≤ k) :
    Completes (metaValues s) (o ++ Config.trailer) s.src s := by
  have hlen : (o ++ Config.trailer).length = o.length + 8 := by simp [Config.trailer]
  have hdrain := drain_of_oks (out := o ++ Config.trailer) hwr hsnk (by omega)
  have hstep : step s = .next (endStep { afterWrites (o ++ Config.trailer) (oks (k - (o ++ Config.trailer).length)) s with
      run := 0, phase := .flush }) := by
    rw [step_of_agenda_nil hagenda]
    simp only [engineStep, hphase, encFinish, hopen, hdrain, Flow.settle_go]
  obtain ⟨j, hj⟩ : ∃ j, k - (o ++ Config.trailer).length = j + 1 := ⟨k - (o.length + 9), by omega⟩
  rw [hj] at hstep
  exact .of_leads (leads_of_step hstep) rfl (by rw [sinkBytes_wrote, List.append_nil])
    (completes_of_flush (rest := oks j) rfl hagenda rfl)

/-- With no pixel left, the body is left, and the open run and the trailer are written. -/
theorem BodyAt.encodeEnd {o : List Byte} (h : BodyAt .enc v c run prev 0 src k s) (hopen : openRunBytes run = some o)
    (hk : o.length + 9 ≤ k) : Completes v (o ++ Config.trailer) src s := by
  have hleave : step s = .next { s with phase := .trailer } := by
    rw [step_of_agenda_nil h.agenda]
    simp [engineStep, h.phase, bodyStep, h.pixDone_eq, h.mode, leaveEncBody]
  obtain ⟨-, -, hagenda, -, hwr, rfl, -, rfl, -, -, rfl, hsnk⟩ := h
  exact .of_silentStep hleave rfl
    (encodeFinish_completes (s := { s with phase := .trailer }) rfl hagenda hwr hopen hsnk hk)

/-- One pixel whose bytes the source delivers: its plan is written, and the codec state is the plan's (rule R160). -/
theorem BodyAt.encodePixel {left : Nat} {p : Pixel} {plan : EncPlan} {out : List Byte} {rest : List SrcAnswer}
    (h : BodyAt .enc v c run prev (left + 1) (delivers (pixelBytes v.channels p) ++ src) k s)
    (ha : v.channels ≠ 4 → p.a = prev.a) (hplan : encPlan c run p prev = some plan) (hk : plan.out.length ≤ k)
    (hnext : ∀ t, BodyAt .enc v plan.cache plan.run p left src (k - plan.out.length) t → Completes v out rest t) :
    Completes v (plan.out ++ out) rest s := by
  have hat : AtEncodeStep s := ⟨h.phase, h.mode, h.pixDone_lt⟩
  obtain ⟨hphase, hmode, hagenda, hbuf, hwr, rfl, rfl, rfl, rfl, hleft, hsrc, hsnk⟩ := h
  have hsnk' : s.snk = oks (plan.out.drop s.wrCnt).length ++ oks (k - plan.out.length) := by
    rw [hsnk, hwr, List.drop_zero, ← oks_eq_append hk]
  have hstep := engineStep_of_encPlan hat hsrc (by rw [hbuf, List.nil_append]; rfl) ha hplan hsnk'
  rw [← step_of_agenda_nil hagenda, hwr, List.drop_zero] at hstep
  refine .of_leads (leads_of_step hstep) (List.append_assoc ..) ?_ (hnext _ ?_)
  · rw [sinkBytes_append, sinkBytes_readByte, sinkBytes_wrote, List.nil_append]
  · exact ⟨hphase, hmode, hagenda, rfl, rfl, rfl, rfl, rfl, rfl, toNat_pixDone_add (n := 1) hleft, rfl, rfl⟩

/-- From between two pixel steps on, an encode call whose source delivers the pixels left writes what they encode to. -/
theorem BodyAt.encode_completes {ps : List Pixel} {bs : List Byte} (henc : EncodesTo c run prev ps bs)
    (h : BodyAt .enc v c run prev ps.length (delivers (ps.flatMap (pixelBytes v.channels)) ++ src) k s)
    (halpha : v.channels ≠ 4 → ∀ q ∈ prev :: ps, q.a = 255) (hk : bs.length + 9 ≤ k) :
    Completes v (bs ++ Config.trailer) src s := by
  induction henc generalizing s k with
  | nil hopen => exact h.encodeEnd hopen hk
  | @cons c run prev p ps plan bs hplan _ ih =>
    rw [List.flatMap_cons, delivers_append, List.append_assoc] at h
    rw [List.length_append] at hk
    have ha (hch : v.channels ≠ 4) : p.a = prev.a :=
      (halpha hch p (by simp)).trans (halpha hch prev (by simp)).symm
    rw [List.append_assoc]
    refine h.encodePixel ha hplan (by omega) fun t ht => ih ht ?_ (by omega)
    exact fun hch q hq => halpha hch q (List.mem_cons_of_mem _ hq)

end

end Sys2Proof
end

section
/-! The body of a decode call that reads an encoder's bytes (rules R190 to R200): the decoder lags behind the encoder by the
run the encoder has open, and has otherwise the same codec state. -/

namespace Sys2Proof

open Machine

theorem exec_of_ne_run {i : Instr} {s : State} (h : ∀ count, i ≠ .run count) :
    exec i s = completePixel (resolved s i) s.run s := by
  cases i with
  | run count => exact absurd rfl (h count)
  | _ => exact exec_eq _ s rfl

/-- A chunk other than a `RUN`, all its bytes delivered and its pixel accepted, is one completed pixel step. -/
theorem step_of_chunk {s : State} {i : Instr} {bytes : List Byte} {rest : List SrcAnswer} {snkRest : List SnkAnswer}
    (h : BetweenDecodeSteps s) (hat : AtDecodeStep s) (hrun : s.run = 0) (hi : ∀ count, i ≠ .run count)
    (hbytes : encode i = some bytes) (hsrc : s.src = delivers bytes ++ rest)
    (hsnk : s.snk = oks (pixelBytes s.metaChannels (resolved s i)).length ++ snkRest) :
    step s = .next (afterPixel (resolved s i) 0 (pixelBytes s.metaChannels (resolved s i)) snkRest (afterReads bytes rest s)) := by
  have hdecode : decode (s.rdBuf ++ bytes) = .chunk i [] := by
    simpa [h.rdBuf] using decode_append_of_encode [] hbytes
  have hresolved : resolved (afterReads bytes rest s) i = resolved s i := by cases i <;> rfl
  have hgo := completePixel_go (resolved s i) 0 snkRest (afterReads bytes rest s) (by simpa [h.wrCnt] using hsnk)
  rw [step_of_agenda_nil h.agenda, engineStep_of_run_eq_zero hat hrun, chunkStep_of_decode hsrc hdecode, exec_of_ne_run hi,
    hresolved, afterReads_run, hrun, hgo, afterReads_wrCnt, h.wrCnt, List.drop_zero, afterReads_metaChannels]

theorem flatten_replicate_pixelBytes (n : Nat) (ch : Byte) (p : Pixel) :
    (List.replicate n (pixelBytes ch p)).flatten = (List.replicate n p).flatMap (pixelBytes ch) := by
  rw [List.flatMap, List.map_replicate]

/-- The bytes of an open run, if any, are read and its pixels put out: as many as the run counts. -/
theorem leads_openRun {s : State} {r : BitVec 6} {o : List Byte} {rest : List SrcAnswer} {snkRest : List SnkAnswer}
    (h : BetweenDecodeSteps s) (hrun : s.run = 0) (hopen : openRunBytes r = some o) (hsrc : s.src = delivers o ++ rest)
    (hleft : s.pixDone.toNat + r.toNat ≤ s.pixTotal.toNat)
    (hsnk : s.snk = oks ((List.replicate r.toNat s.prev).flatMap (pixelBytes s.metaChannels)).length ++ snkRest) :
    Leads r.toNat s (afterRepeats r.toNat 0 snkRest (afterReads o rest s)) := by
  unfold openRunBytes at hopen
  split at hopen
  · next h0 =>
    subst h0
    obtain rfl : [] = o := by simpa using hopen
    obtain rfl : s.src = rest := hsrc
    obtain rfl : s.snk = snkRest := hsnk
    have hnone : afterRepeats 0 0 s.snk s = s := by simpa [hrun] using afterRepeats_zero h.rdBuf h.wrCnt
    rw [afterReads_nil]
    exact congrArg Host.Outcome.next hnone.symm
  · next =>
    obtain ⟨hok, rfl⟩ := encode_run_eq_some hopen
    obtain ⟨hpos, hmax⟩ := (runCountOk_iff r).1 hok
    have hleads := runChunkYieldsCountPixels s _ r.toNat r.toNat rest snkRest h.phase h.mode hrun h.rdBuf h.wrCnt h.agenda hpos
      le_rfl hmax (toNat_runByte hpos) hsrc hleft (by simpa [List.length_flatMap] using hsnk)
    have hdone : BitVec.ofNat 64 (s.pixDone.toNat + r.toNat) = s.pixDone + BitVec.ofNat 64 r.toNat := by
      rw [BitVec.ofNat_add, BitVec.ofNat_toNat, BitVec.setWidth_eq]
    simpa [afterRepeats, afterReads, h.rdBuf, h.wrCnt, hdone] using hleads

section

variable {v : MetaValues} {c : Slots} {prev : Pixel} {src : List SrcAnswer} {k : Nat} {s : State}

theorem BodyAt.betweenDecodeSteps {run : BitVec 6} {left : Nat} (h : BodyAt .dec v c run prev left src k s) : BetweenDecodeSteps s :=
  ⟨h.phase, h.mode, h.agenda, h.rdBuf, h.wrCnt⟩

/-- With no pixel left, the body is left and the flush ends the call (rules R261, R262). -/
theorem BodyAt.decodeEnd (h : BodyAt .dec v c 0 prev 0 src k s) (hk : 1 ≤ k) : Completes v [] src s := by
  have hleave : step s = .next (endStep { s with phase := .flush }) := by
    rw [step_of_agenda_nil h.agenda]
    simp [engineStep, h.phase, bodyStep, h.pixDone_eq, h.mode, leaveDecBody, Config.decReadsTrailer]
  obtain ⟨-, -, hagenda, -, -, rfl, -, -, -, -, rfl, hsnk⟩ := h
  obtain ⟨j, rfl⟩ : ∃ j, k = j + 1 := ⟨k - 1, by omega⟩
  exact .of_silentStep hleave rfl
    (completes_of_flush (s := endStep { s with phase := .flush }) (rest := oks j) rfl hagenda hsnk)

/-- The bytes of an open run of `r` pixels: `prev` is put out `r` times, and the codec state is as before (rule R198). -/
theorem BodyAt.decodeOpenRun {r : BitVec 6} {o out : List Byte} {left : Nat} {rest : List SrcAnswer}
    (h : BodyAt .dec v c 0 prev (left + r.toNat) (delivers o ++ src) k s) (hopen : openRunBytes r = some o)
    (hk : ((List.replicate r.toNat prev).flatMap (pixelBytes v.channels)).length ≤ k)
    (hnext : ∀ t, BodyAt .dec v c 0 prev left src
      (k - ((List.replicate r.toNat prev).flatMap (pixelBytes v.channels)).length) t → Completes v out rest t) :
    Completes v ((List.replicate r.toNat prev).flatMap (pixelBytes v.channels) ++ out) rest s := by
  have hbetween := h.betweenDecodeSteps
  obtain ⟨hphase, hmode, hagenda, -, -, rfl, rfl, hrun, rfl, hleft, hsrc, hsnk⟩ := h
  have hleads := leads_openRun hbetween hrun hopen hsrc (by omega) (hsnk.trans (oks_eq_append hk))
  refine .of_leads hleads (List.append_assoc ..) ?_ (hnext _ ?_)
  · rw [sinkBytes_append, sinkBytes_readByte, sinkBytes_wrote, List.nil_append, ← flatten_replicate_pixelBytes]
    rfl
  · exact ⟨hphase, hmode, hagenda, rfl, rfl, rfl, rfl, rfl, rfl, toNat_pixDone_add hleft, rfl, rfl⟩

/-- The bytes of the chunk selected for a changed pixel `p` in the decoder's own codec state: `p` is put out and committed
(rules R145, R199). -/
theorem BodyAt.decodeSelected {p : Pixel} {bytes out : List Byte} {left : Nat} {rest : List SrcAnswer}
    (h : BodyAt .dec v c 0 prev (left + 1) (delivers bytes ++ src) k s) (hne : p ≠ prev)
    (hbytes : encode (selectOp c p prev).1 = some bytes) (hk : (pixelBytes v.channels p).length ≤ k)
    (hnext : ∀ t, BodyAt .dec v (cacheInsert c p) 0 p left src (k - (pixelBytes v.channels p).length) t →
      Completes v out rest t) :
    Completes v (pixelBytes v.channels p ++ out) rest s := by
  have hbetween := h.betweenDecodeSteps
  have hat : AtDecodeStep s := ⟨h.phase, h.mode, h.pixDone_lt⟩
  obtain ⟨hphase, hmode, hagenda, -, -, rfl, rfl, hrun, rfl, hleft, hsrc, hsnk⟩ := h
  have hp : resolved s (selectOp s.cache p s.prev).1 = p := resolved_selectOp s p
  have hstep := step_of_chunk hbetween hat hrun (selectOp_ne_run s.cache p s.prev) hbytes hsrc
    (by rw [hp]; exact hsnk.trans (oks_eq_append hk))
  rw [hp] at hstep
  refine .of_leads (leads_of_step hstep) (List.append_assoc ..) ?_ (hnext _ ?_)
  · rw [sinkBytes_append, sinkBytes_readByte, sinkBytes_wrote, List.nil_append]
    rfl
  · exact ⟨hphase, hmode, hagenda, rfl, rfl, rfl, if_neg hne, rfl, rfl, toNat_pixDone_add (n := 1) hleft, rfl, rfl⟩

theorem replicate_append_cons_self (n : Nat) (p : Pixel) (ps : List Pixel) :
    List.replicate n p ++ p :: ps = List.replicate (n + 1) p ++ ps := by
  rw [List.replicate_succ', List.append_assoc, List.singleton_append]

/-- A decode call that reads what an encoder in the same codec state, but with a run of `r` open, wrote for the pixels `ps`,
puts out `prev` `r` times and then these pixels. -/
theorem BodyAt.decode_completes {ps : List Pixel} {bs : List Byte} {r : BitVec 6} (henc : EncodesTo c r prev ps bs)
    (hr : r.toNat ≤ 61) (h : BodyAt .dec v c 0 prev (ps.length + r.toNat) (delivers bs ++ src) k s)
    (hk : ((List.replicate r.toNat prev ++ ps).flatMap (pixelBytes v.channels)).length + 1 ≤ k) :
    Completes v ((List.replicate r.toNat prev ++ ps).flatMap (pixelBytes v.channels)) src s := by
  induction henc generalizing s k with
  | nil hopen =>
    rw [List.flatMap_append] at hk ⊢
    rw [List.length_append] at hk
    exact h.decodeOpenRun hopen (by omega) fun t ht => ht.decodeEnd (by omega)
  | @cons c r prev p ps plan bs hplan hrest ih =>
    have hsucc : (r + 1).toNat = r.toNat + 1 := by bv_omega
    have hlater : (p :: ps).length + r.toNat = ps.length + (r + 1).toNat := by rw [hsucc, List.length_cons]; omega
    rcases encPlan_cases c p prev hr with ⟨rfl, hlt, heq⟩ | ⟨rfl, o, hopen, -, heq⟩ | ⟨hne, o, bytes, hopen, -, hbytes, -, heq⟩ <;>
      obtain rfl := Option.some.inj (heq.symm.trans hplan)
    · rw [hlater] at h
      rw [replicate_append_cons_self, ← hsucc] at hk ⊢
      exact ih (hsucc.trans_le hlt) h hk
    · rw [hlater, delivers_append, List.append_assoc] at h
      rw [replicate_append_cons_self, ← hsucc, List.flatMap_append] at hk ⊢
      rw [List.length_append] at hk
      refine h.decodeOpenRun hopen (by omega) fun t ht => ih (Nat.zero_le _) ht ?_
      change (ps.flatMap _).length + 1 ≤ _
      omega
    · rw [List.length_cons, delivers_append, delivers_append, List.append_assoc, List.append_assoc] at h
      rw [List.flatMap_append, List.flatMap_cons] at hk ⊢
      rw [List.length_append, List.length_append] at hk
      refine h.decodeOpenRun hopen (by omega) fun t ht =>
        ht.decodeSelected hne hbytes (by omega) fun u hu => ih (Nat.zero_le _) hu ?_
      change (ps.flatMap _).length + 1 ≤ _
      omega

end

end Sys2Proof
end

section
/-! Whole calls and the round trip (rule R270): the command, the header, and then the body from the initialised codec state. -/

namespace Sys2Proof

open Machine

/-! ## The pixels of a byte stream -/

/-- As many bytes as a pixel has are the bytes of the pixel they stand for. -/
theorem pixelBytes_pixelOfBytes {ch : Byte} (prev : Pixel) {bs : List Byte} (h : bs.length = stride ch) :
    pixelBytes ch (pixelOfBytes ch prev bs) = bs := by
  by_cases hch : ch = 4
  · rw [stride, if_pos hch] at h
    obtain ⟨r, g, b, a, rfl⟩ := List.length_eq_four.1 h
    rw [pixelBytes, pixelOfBytes, if_pos hch, if_pos hch]
    rfl
  · rw [stride, if_neg hch] at h
    obtain ⟨r, g, b, rfl⟩ := List.length_eq_three.1 h
    rw [pixelBytes, if_neg hch]
    rfl

/-- Bytes for `n` pixels are the bytes of `n` pixels, with alpha 255 where the stream has none (rules R59, R161). -/
theorem exists_pixels (ch : Byte) (n : Nat) (px : List Byte) (h : px.length = n * stride ch) :
    ∃ ps : List Pixel, ps.length = n ∧ ps.flatMap (pixelBytes ch) = px ∧ (ch ≠ 4 → ∀ q ∈ ps, q.a = 255) := by
  induction n generalizing px with
  | zero => exact ⟨[], rfl, (List.eq_nil_of_length_eq_zero (by simpa using h)).symm, by simp⟩
  | succ n ih =>
    rw [Nat.add_one_mul] at h
    obtain ⟨ps, hlen, hbytes, halpha⟩ := ih (px.drop (stride ch)) (by simp; omega)
    have hfirst : pixelBytes ch (pixelOfBytes ch .black (px.take (stride ch))) = px.take (stride ch) :=
      pixelBytes_pixelOfBytes _ (by simp; omega)
    refine ⟨pixelOfBytes ch .black (px.take (stride ch)) :: ps, by simp [hlen], ?_, fun hch q hq => ?_⟩
    · rw [List.flatMap_cons, hfirst, hbytes, List.take_append_drop]
    · obtain rfl | hq := List.mem_cons.1 hq
      · exact if_neg hch
      · exact halpha hch q hq

/-! ## The calls -/

theorem toNat_pixelCount (w h : BitVec 32) : (pixelCount w h).toNat = w.toNat * h.toNat := by
  have hlt : w.toNat * h.toNat < 2 ^ 32 * 2 ^ 32 := Nat.mul_lt_mul'' w.isLt h.isLt
  simpa [pixelCount] using hlt

/-- A command that is due to a resting engine starts its call (rules R250, R251, R256). -/
theorem step_of_dueCommand {m : Mode} {e : HostEvent} {s : State} (he : applyEvent e = command m)
    (hrest : s.phase.busy = false) (hagenda : s.agenda = [(0, e)]) : step s = .next (startCall m { s with agenda := [] }) := by
  simp [step, turn, hagenda, he, command, hrest]

/-- What `ps` encode to from the codec state every call starts from (rule R28). -/
abbrev EncodesFromStart (ps : List Pixel) (bs : List Byte) : Prop := EncodesTo (Vector.replicate 64 .clear) 0 .black ps bs

/-- An encode call on legal arguments writes the header, what the pixels encode to, and the trailer. -/
theorem encodeCall_completes {s : State} {ps : List Pixel} {bs : List Byte} {more : List SrcAnswer} {k : Nat}
    (hrest : s.phase.busy = false) (hagenda : s.agenda = [(0, .startEnc)]) (hch : channelsOk s.metaChannels = true)
    (hcs : colorspaceOk s.metaColorspace = true) (hcount : ps.length = s.metaWidth.toNat * s.metaHeight.toNat)
    (halpha : s.metaChannels ≠ 4 → ∀ q ∈ ps, q.a = 255) (henc : EncodesFromStart ps bs)
    (hsrc : s.src = delivers (ps.flatMap (pixelBytes s.metaChannels)) ++ more) (hsnk : s.snk = oks k) (hk : bs.length + 23 ≤ k) :
    Completes (metaValues s)
      (headerBytes s.metaWidth s.metaHeight s.metaChannels s.metaColorspace ++ (bs ++ Config.trailer)) more s := by
  have hheader := encHeader_go (s := startCall .enc { s with agenda := [] }) hch hcs rfl
    (hsnk.trans (oks_eq_append (by omega : 14 ≤ k)))
  rw [← engineStep_of_encHeader rfl rfl, ← step_of_agenda_nil rfl] at hheader
  have halpha' (h : s.metaChannels ≠ 4) : ∀ q ∈ Pixel.black :: ps, q.a = 255 :=
    List.forall_mem_cons.2 ⟨rfl, halpha h⟩
  refine .of_silentStep (step_of_dueCommand rfl hrest hagenda) rfl ?_
  refine .of_leads (leads_of_step hheader) rfl (congrArg (· ++ _) (sinkBytes_wrote _)) ?_
  refine BodyAt.encode_completes (k := k - 14) henc ?_ halpha' (by omega)
  exact ⟨rfl, rfl, rfl, rfl, rfl, rfl, rfl, rfl, rfl, by simp [hcount, toNat_pixelCount], hsrc, rfl⟩

/-- A decode call that reads a legal header and what `ps` encode to ends with that metadata and has written these pixels. -/
theorem decodeCall_completes {d : State} {v : MetaValues} {ps : List Pixel} {bs : List Byte} {rest : List SrcAnswer} {k : Nat}
    (hrest : d.phase.busy = false) (hagenda : d.agenda = [(0, .startDec)]) (hch : channelsOk v.channels = true)
    (hcs : colorspaceOk v.colorspace = true) (hcount : ps.length = v.width.toNat * v.height.toNat)
    (henc : EncodesFromStart ps bs)
    (hsrc : d.src = delivers (headerBytes v.width v.height v.channels v.colorspace) ++ (delivers bs ++ rest))
    (hsnk : d.snk = oks k) (hk : (ps.flatMap (pixelBytes v.channels)).length + 1 ≤ k) :
    Completes v (ps.flatMap (pixelBytes v.channels)) rest d := by
  have hheader := decHeader_go (s := startCall .dec { d with agenda := [] }) hch hcs rfl hsrc
  rw [← engineStep_of_decHeader rfl rfl, ← step_of_agenda_nil rfl] at hheader
  refine .of_silentStep (step_of_dueCommand rfl hrest hagenda) rfl ?_
  refine .of_leads (leads_of_step hheader) rfl (congrArg (· ++ _) (sinkBytes_readByte _)) ?_
  refine BodyAt.decode_completes (k := k) (r := 0) henc (by decide) ?_ hk
  exact ⟨rfl, rfl, rfl, rfl, rfl, rfl, rfl, rfl, rfl, by simp [hcount, toNat_pixelCount], rfl, hsnk⟩

/-- Settles O59: the source's bytes are those of some pixels; the encode call writes what these encode to between header and
trailer, and a decode call, starting from the same codec state, puts them out again. -/
theorem encodeThenDecodeIsIdentity : Obligations.EncodeThenDecodeIsIdentity := by
  intro s px more k hrest hagenda hch hcs hlen hsrc hsnk hk
  have hstride : stride s.metaChannels = s.metaChannels.toNat := by
    rcases hch with h | h <;> rw [h] <;> rfl
  obtain ⟨ps, hcount, rfl, halpha⟩ := exists_pixels s.metaChannels _ px (hstride ▸ hlen)
  obtain ⟨bs, henc, hbound⟩ := exists_encodesTo ps (Vector.replicate 64 .clear) (run := 0) .black (by decide)
  have hch' := (channelsOk_iff _).2 hch
  have hcs' := (colorspaceOk_iff _).2 hcs
  obtain ⟨n, e, h, hleads, hdone, -, hsrc', hhist, hout⟩ :=
    encodeCall_completes hrest hagenda hch' hcs' hcount halpha henc hsrc hsnk (by omega)
  refine ⟨n, e, h, hleads, hdone, hhist, hsrc', fun d tail j hrestD hagendaD hsrcD hsnkD hj => ?_⟩
  rw [hout, delivers_append, delivers_append, List.append_assoc, List.append_assoc] at hsrcD
  obtain ⟨m, f, h', hleads', hdone', hvalues, -, hhist', hout'⟩ :=
    decodeCall_completes (v := metaValues s) hrestD hagendaD hch' hcs' hcount henc hsrcD hsnkD hj
  obtain ⟨hwidth, hheight, hchannels, hcolorspace⟩ := MetaValues.mk.inj hvalues
  exact ⟨m, f, h', hleads', hdone', hwidth, hheight, hchannels, hcolorspace, hhist', hout'⟩

end Sys2Proof
end

section
/-! The error entry (rules R290, R300), and the kinds an error can have: every port operation, every phase and every host event
keeps `ERR_KIND`, clears it or sets it to a kind other than `InvalidIndex` and `UnknownTag` (rules R294, R296). -/

namespace Sys2Proof

open Machine

/-! ## The error entry -/

theorem engineStep_of_phase_error {s : State} (h : s.phase = .error) : engineStep s = .next s := by
  simp [engineStep, h]

/-- Settles O48: the entry writes the error registers and the phase, and phase `ERROR` waits for the host; the codes and the
bytes kind by kind. -/
theorem errorEntryRecordsKind : Obligations.ErrorEntryRecordsKind := by
  intro e s
  have hphase : (errorEntry e s).phase = .error := errorEntry_phase e s
  exact ⟨hphase, errorEntry_errKind e s, errorEntry_errByte e s, errorEntry_hist e s, errorEntry_src e s, errorEntry_snk e s,
    errorEntry_mode e s, engineStep_of_phase_error hphase, by cases e <;> rfl, by cases e <;> rfl⟩

/-! ## What a step does to `ERR_KIND` -/

/-- Every kind but `InvalidIndex` and `UnknownTag`. -/
def Raisable (kind : ErrKind) : Prop := kind ≠ .invalidIndex ∧ kind ≠ .unknownTag

theorem raisable_invalidHeader : Raisable CoreError.invalidHeader.kind := ⟨nofun, nofun⟩
theorem raisable_invalidColorspace (b : Byte) : Raisable (CoreError.invalidColorspace b).kind := ⟨nofun, nofun⟩
theorem raisable_invalidDimensions : Raisable CoreError.invalidDimensions.kind := ⟨nofun, nofun⟩
theorem raisable_unexpectedEof : Raisable CoreError.unexpectedEof.kind := ⟨nofun, nofun⟩
theorem raisable_ioError : Raisable CoreError.ioError.kind := ⟨nofun, nofun⟩

/-- A run of port operations leaves `ERR_KIND` at `k`, or raises an error of a raisable kind. -/
def FlowKind (k : ErrKind) : Flow → Prop
  | .go t => t.errKind = k
  | .wait t => t.errKind = k
  | .raise e _ => Raisable e.kind

/-- A step that answers a next state leaves `ERR_KIND` there at `k`, or at a raisable kind. -/
def ResultKind (k : ErrKind) (r : Result) : Prop := ∀ t, r = .next t → t.errKind = k ∨ Raisable t.errKind

section
variable {k : ErrKind} {s : State}

theorem ResultKind.kept (hs : s.errKind = k) : ResultKind k (.next s) := by
  rintro t ⟨⟩
  exact .inl hs

theorem ResultKind.raised (hs : Raisable s.errKind) : ResultKind k (.next s) := by
  rintro t ⟨⟩
  exact .inr hs

theorem FlowKind.andThen {f : Flow} {g : State → Flow} (hf : FlowKind k f) (hg : ∀ t, t.errKind = k → FlowKind k (g t)) :
    FlowKind k (f.andThen g) := by
  cases f with
  | go t => exact hg t hf
  | wait t => exact hf
  | raise e t => exact hf

theorem FlowKind.settle {f : Flow} {g : State → Result} (hf : FlowKind k f) (hg : ∀ t, t.errKind = k → ResultKind k (g t)) :
    ResultKind k (f.settle g) := by
  cases f with
  | go t => exact hg t hf
  | wait t => exact .kept hf
  | raise e t => exact .raised hf

/-! ## The port operations -/

theorem flowKind_fill (n : Nat) {e : CoreError} (he : Raisable e.kind) (hs : s.errKind = k) : FlowKind k (fill n e s) := by
  rw [fill]
  rcases readN_cases (n - s.rdBuf.length) e s with
    ⟨bs, rest, -, -, hr⟩ | ⟨bs, -, -, hr⟩ | ⟨bs, rest, -, -, hr⟩ | ⟨bs, rest, -, -, hr⟩ <;> rw [hr]
  · exact hs
  · exact hs
  · exact he
  · exact raisable_ioError

theorem flowKind_drain (out : List Byte) (hs : s.errKind = k) : FlowKind k (drain out s) := by
  rw [drain]
  rcases putAll_cases (out.drop s.wrCnt) s with ⟨rest, -, hr⟩ | ⟨n, -, -, hr⟩ | ⟨n, rest, _, -, hr⟩ <;> rw [hr]
  · exact hs
  · exact hs
  · exact raisable_ioError

theorem flowKind_snkFlush (hs : s.errKind = k) : FlowKind k (snkFlush s) := by
  unfold snkFlush
  split
  · exact hs
  · exact hs
  · exact raisable_ioError

/-! ## The decode pixel step -/

theorem resultKind_completePixel (p : Pixel) (run : BitVec 6) (hs : s.errKind = k) : ResultKind k (completePixel p run s) :=
  (flowKind_drain _ hs).settle fun t ht => .kept ((finishPixel_errKind p run t).trans ht)

theorem resultKind_exec (i : Instr) (hs : s.errKind = k) : ResultKind k (exec i s) := by
  cases i with
  | run count =>
    rw [exec, execRun]
    split
    · exact resultKind_completePixel _ _ hs
    · exact nofun
  | _ => exact resultKind_completePixel _ _ hs

theorem resultKind_chunkStep (hs : s.errKind = k) : ResultKind k (chunkStep s) := by
  have hfetch : FlowKind k (fetchChunk s) :=
    (flowKind_fill 1 raisable_unexpectedEof hs).andThen fun _ ht => flowKind_fill _ raisable_unexpectedEof ht
  refine hfetch.settle fun t ht => ?_
  split
  · exact resultKind_exec _ ht
  · exact .raised raisable_unexpectedEof

theorem resultKind_decPixelStep (hs : s.errKind = k) : ResultKind k (decPixelStep s) := by
  unfold decPixelStep
  split
  · exact resultKind_completePixel _ _ hs
  · exact resultKind_chunkStep hs

/-! ## The encode pixel step and the encode finish -/

theorem resultKind_emitPixel (p : Pixel) (hs : s.errKind = k) : ResultKind k (emitPixel p s) := by
  unfold emitPixel
  split
  · exact nofun
  · exact (flowKind_drain _ hs).settle fun _ ht => .kept ht

theorem resultKind_encPixelStep (hs : s.errKind = k) : ResultKind k (encPixelStep s) :=
  (flowKind_fill _ raisable_unexpectedEof hs).settle fun _ ht => resultKind_emitPixel _ ht

theorem resultKind_encFinish (hs : s.errKind = k) : ResultKind k (encFinish s) := by
  unfold encFinish
  split
  · exact nofun
  · exact (flowKind_drain _ hs).settle fun _ ht => .kept ht

/-! ## The headers -/

theorem resultKind_encHeader (hs : s.errKind = k) : ResultKind k (encHeader s) := by
  unfold encHeader
  split
  · exact .raised raisable_invalidHeader
  · split
    · exact .raised (raisable_invalidColorspace s.metaColorspace)
    · exact (flowKind_drain _ hs).settle fun _ ht => .kept ht

theorem flowKind_decMagic (hs : s.errKind = k) : FlowKind k (decMagic s) := by
  refine (flowKind_fill 4 raisable_invalidHeader hs).andThen fun t ht => ?_
  split
  · exact ht
  · exact raisable_invalidHeader

theorem flowKind_decDimensions (hs : s.errKind = k) : FlowKind k (decDimensions s) := by
  refine (flowKind_fill 8 raisable_invalidDimensions hs).andThen fun t ht => ?_
  have hwidth : { t with metaWidth := wordAt t.rdBuf 4 }.errKind = k := ht
  exact (flowKind_fill 12 raisable_invalidDimensions hwidth).andThen fun u hu => hu

theorem flowKind_decChannels (hs : s.errKind = k) : FlowKind k (decChannels s) := by
  refine (flowKind_fill 13 raisable_unexpectedEof hs).andThen fun t ht => ?_
  split
  · exact ht
  · exact raisable_invalidHeader

theorem flowKind_decColorspace (hs : s.errKind = k) : FlowKind k (decColorspace s) := by
  refine (flowKind_fill 14 raisable_unexpectedEof hs).andThen fun t ht => ?_
  split
  · exact ht
  · exact raisable_invalidColorspace _

theorem resultKind_decHeader (hs : s.errKind = k) : ResultKind k (decHeader s) :=
  ((((flowKind_decMagic hs).andThen fun _ => flowKind_decDimensions).andThen fun _ => flowKind_decChannels).andThen
    fun _ => flowKind_decColorspace).settle fun _ ht => .kept ht

/-! ## The phases and the host events -/

theorem resultKind_leaveDecBody (hs : s.errKind = k) : ResultKind k (leaveDecBody s) := by
  have hread : FlowKind k (if Config.decReadsTrailer then fill 8 .unexpectedEof s else .go s) := by
    split
    · exact flowKind_fill 8 raisable_unexpectedEof hs
    · exact hs
  exact hread.settle fun _ ht => .kept ht

theorem resultKind_bodyStep (hs : s.errKind = k) : ResultKind k (bodyStep s) := by
  unfold bodyStep
  split <;> split
  · exact resultKind_encPixelStep hs
  · exact resultKind_decPixelStep hs
  · exact .kept hs
  · exact resultKind_leaveDecBody hs

theorem resultKind_headerStep (hs : s.errKind = k) : ResultKind k (headerStep s) := by
  unfold headerStep
  split
  · exact resultKind_encHeader hs
  · exact resultKind_decHeader hs

theorem resultKind_engineStep (hs : s.errKind = k) : ResultKind k (engineStep s) := by
  unfold engineStep
  cases s.phase with
  | idle | done | error => exact .kept hs
  | header => exact resultKind_headerStep hs
  | body => exact resultKind_bodyStep hs
  | trailer => exact resultKind_encFinish hs
  | flush => exact (flowKind_snkFlush hs).settle fun _ ht => .kept ht

theorem command_errKind (m : Mode) (s : State) : (command m s).errKind = s.errKind ∨ (command m s).errKind = .none := by
  unfold command
  split
  · exact .inl rfl
  · exact .inr rfl

theorem hostWrite_errKind (w : MetaWrite) (s : State) : (hostWrite w s).errKind = s.errKind := by
  unfold hostWrite
  split
  · rfl
  · cases w <;> rfl

theorem applyEvent_errKind (e : HostEvent) (s : State) :
    (applyEvent e s).errKind = s.errKind ∨ (applyEvent e s).errKind = .none := by
  cases e with
  | startEnc => exact command_errKind .enc s
  | startDec => exact command_errKind .dec s
  | write w => exact .inl (hostWrite_errKind w s)
  | reset => exact .inr rfl
  | srcAnswers as => exact .inl rfl
  | snkAnswers as => exact .inl rfl

theorem resultKind_step (hs : s.errKind = k) : ResultKind k (step s) := by
  unfold step turn
  split
  · exact resultKind_engineStep hs
  · next e rest _ =>
    rcases applyEvent_errKind e { s with agenda := rest } with hkept | hnone
    · exact .kept (hkept.trans hs)
    · exact .raised (hnone ▸ ⟨nofun, nofun⟩)
  · exact resultKind_engineStep hs

end

/-- Settles O57: a step either keeps the kind held before or leaves a kind that is neither of the two. -/
theorem unreachableErrorsNeverRaised : Obligations.UnreachableErrorsNeverRaised := by
  intro s t hstep
  rcases resultKind_step rfl t hstep with hkept | ⟨hindex, htag⟩
  · exact ⟨fun h => hkept.symm.trans h, fun h => hkept.symm.trans h⟩
  · exact ⟨fun h => absurd h hindex, fun h => absurd h htag⟩

end Sys2Proof
end

section
/-! Chunks from their bytes: whatever decodes is the encoding of what it decodes to (rule R235), the fields of the chunks with
extra bytes (rules R231 to R233), and the Ops without bytes (rules R81, R236). -/

namespace Sys2Proof

/-! ## Decoded bytes are the chunk's encoding

A byte is put together again from its tag and its fields: both are the same number. -/

theorem indexByte_of_kindOf {b0 : Byte} (h : kindOf b0 = .index) : 0b00#2 ++ b0.extractLsb' 0 6 = b0 := by
  obtain ⟨-, -, hindex, -, -, -⟩ := leadingByteKinds b0
  have hrange : b0.toNat ≤ 0x3F := hindex.1 h
  apply BitVec.eq_of_toNat_eq
  rw [toNat_indexByte, toNat_fieldExtract]
  omega

theorem colorByte_of_kindOf {b0 : Byte} (h : kindOf b0 = .color) :
    0b01#2 ++ b0.extractLsb' 4 2 ++ b0.extractLsb' 2 2 ++ b0.extractLsb' 0 2 = b0 := by
  obtain ⟨-, -, -, hcolor, -, -⟩ := leadingByteKinds b0
  have hrange : 0x40 ≤ b0.toNat ∧ b0.toNat ≤ 0x7F := hcolor.1 h
  apply BitVec.eq_of_toNat_eq
  rw [toNat_colorByte, toNat_fieldExtract, toNat_fieldExtract, toNat_fieldExtract]
  omega

theorem lumaLeadingByte_of_kindOf {b0 : Byte} (h : kindOf b0 = .luma) : 0b10#2 ++ b0.extractLsb' 0 6 = b0 := by
  obtain ⟨-, -, -, -, hluma, -⟩ := leadingByteKinds b0
  have hrange : 0x80 ≤ b0.toNat ∧ b0.toNat ≤ 0xBF := hluma.1 h
  apply BitVec.eq_of_toNat_eq
  rw [toNat_lumaLeadingByte, toNat_fieldExtract]
  omega

theorem lumaSecondByte_eq (b1 : Byte) : b1.extractLsb' 4 4 ++ b1.extractLsb' 0 4 = b1 := by
  apply BitVec.eq_of_toNat_eq
  rw [toNat_lumaSecondByte, toNat_fieldExtract, toNat_fieldExtract]
  omega

theorem runByte_of_kindOf {b0 : Byte} (h : kindOf b0 = .run) : 0b11#2 ++ (b0.extractLsb' 0 6 + 1 - 1) = b0 := by
  obtain ⟨-, -, -, -, -, hrun⟩ := leadingByteKinds b0
  have hrange : 0xC0 ≤ b0.toNat ∧ b0.toNat ≤ 0xFD := hrun.1 h
  apply BitVec.eq_of_toNat_eq
  rw [BitVec.add_sub_cancel, toNat_fieldAppend, toNat_fieldExtract]
  simp
  omega

theorem decodeRgb_eq_chunk {more rest : List Byte} {i : Instr} (h : decodeRgb more = .chunk i rest) :
    ∃ r g b, i = .rgb r g b ∧ more = r :: g :: b :: rest := by
  unfold decodeRgb at h
  split at h
  · next r g b _ => cases h; exact ⟨r, g, b, rfl, rfl⟩
  · cases h

theorem decodeRgba_eq_chunk {more rest : List Byte} {i : Instr} (h : decodeRgba more = .chunk i rest) :
    ∃ r g b a, i = .rgba r g b a ∧ more = r :: g :: b :: a :: rest := by
  unfold decodeRgba at h
  split at h
  · next r g b a _ => cases h; exact ⟨r, g, b, a, rfl, rfl⟩
  · cases h

theorem decodeLuma_eq_chunk {b0 : Byte} {more rest : List Byte} {i : Instr} (h : decodeLuma b0 more = .chunk i rest) :
    ∃ b1, i = .luma (b0.extractLsb' 0 6) (b1.extractLsb' 4 4) (b1.extractLsb' 0 4) ∧ more = b1 :: rest := by
  unfold decodeLuma at h
  split at h
  · next b1 _ => cases h; exact ⟨b1, rfl, rfl⟩
  · cases h

/-- The bytes a decoded chunk has consumed are the bytes it is encoded as. -/
theorem encode_of_decode {bs rest : List Byte} {i : Instr} (h : decode bs = .chunk i rest) :
    ∃ bytes, encode i = some bytes ∧ bs = bytes ++ rest := by
  cases bs with
  | nil => cases h
  | cons b0 more =>
    rcases kindOf_cases b0 with ⟨hk, hb0, -⟩ | ⟨hk, hb0, -⟩ | ⟨hk, -, -⟩ | ⟨hk, -, -⟩ | ⟨hk, -, -⟩ | ⟨hk, -, -⟩
    · obtain rfl : b0 = 0xFE := BitVec.eq_of_toNat_eq hb0
      obtain ⟨r, g, b, rfl, rfl⟩ := decodeRgb_eq_chunk h
      exact ⟨_, rfl, rfl⟩
    · obtain rfl : b0 = 0xFF := BitVec.eq_of_toNat_eq hb0
      obtain ⟨r, g, b, a, rfl, rfl⟩ := decodeRgba_eq_chunk h
      exact ⟨_, rfl, rfl⟩
    · rw [decode_of_kindOf_index more hk] at h
      cases h
      exact ⟨_, rfl, congrArg (· :: rest) (indexByte_of_kindOf hk).symm⟩
    · rw [decode_of_kindOf_color more hk] at h
      cases h
      exact ⟨_, rfl, congrArg (· :: rest) (colorByte_of_kindOf hk).symm⟩
    · simp only [decode, hk] at h
      obtain ⟨b1, rfl, rfl⟩ := decodeLuma_eq_chunk h
      refine ⟨_, rfl, ?_⟩
      rw [lumaLeadingByte_of_kindOf hk, lumaSecondByte_eq]
      rfl
    · rw [decode_of_kindOf_run more hk] at h
      cases h
      exact ⟨_, encode_run_of_countOk (runCountOk_of_kindOf_run hk), congrArg (· :: rest) (runByte_of_kindOf hk).symm⟩

/-- Settles O1: the two directions, each kind by kind. -/
theorem decodeAndEncodeAgree : Obligations.DecodeAndEncodeAgree :=
  ⟨fun _ _ rest h => decode_append_of_encode rest h, fun _ _ _ h => encode_of_decode h⟩

/-! ## Fields and rejections -/

theorem decode_of_kindOf_luma {b0 : Byte} (more : List Byte) (h : kindOf b0 = .luma) :
    decode (b0 :: more) = decodeLuma b0 more := by
  simp only [decode, h]

/-- Settles O5: the range fixes the kind of a `LUMA` byte (O2), and its fields are the bits of the two bytes; the literal tags
are kinds of their own. -/
theorem multiByteChunksDecode : Obligations.MultiByteChunksDecode := by
  refine ⟨fun b0 b1 rest hlo hhi => ?_, fun _ _ _ _ => ⟨rfl, rfl⟩, fun _ _ _ _ _ => ⟨rfl, rfl⟩⟩
  obtain ⟨-, -, -, -, hluma, -⟩ := leadingByteKinds b0
  have hk : kindOf b0 = .luma := hluma.2 ⟨hlo, hhi⟩
  refine ⟨⟨_, _, _, decode_of_kindOf_luma (b1 :: rest) hk, ?_, ?_⟩, decode_of_kindOf_luma [] hk⟩
  · rw [toNat_fieldExtract]
    omega
  · rw [toNat_fieldExtract, toNat_fieldExtract]
    omega

/-- Only a `RUN` can lack bytes, and it lacks them where its count is refused. -/
theorem encode_eq_none_iff (i : Instr) : encode i = none ↔ i.wellFormed = false := by
  cases i <;> simp [encode, Instr.wellFormed]

theorem wellFormed_eq_false_iff (i : Instr) : i.wellFormed = false ↔ i = .run 0 ∨ i = .run 63 := by
  cases i with
  | run count =>
    rw [Instr.wellFormed, Bool.eq_false_iff, ne_eq, runCountOk_iff, Instr.run.injEq, Instr.run.injEq]
    bv_omega
  | _ => simp [Instr.wellFormed]

/-- Settles O7: six bits hold two counts outside 1..62. -/
theorem illFormedOpsHaveNoBytes : Obligations.IllFormedOpsHaveNoBytes :=
  fun i => ⟨encode_eq_none_iff i, wellFormed_eq_false_iff i⟩

/-- Settles O8: each word by evaluation. -/
theorem sampleWordsDecode : Obligations.SampleWordsDecode :=
  ⟨rfl, rfl, rfl, rfl, rfl, rfl, rfl⟩

end Sys2Proof
end

section
/-! What one step of the engine can do, said once (rule R266): the port operations it makes, how it ends, and what it leaves.
Every statement about all engine steps is read off `stepResult_engineStep`. -/

namespace Sys2Proof

open Machine

/-! ## Answered port operations -/

/-- The registers that no port operation writes: all but the `META_*` registers, which a decode header fills while it reads. -/
def heldRegisters (s : State) : State :=
  { s with
    metaWidth := 0, metaHeight := 0, metaChannels := 0, metaColorspace := 0
    rdBuf := [], wrCnt := 0, src := [], snk := [], agenda := [], hist := [] }

/-- From `s` to `t` the engine has made port operations, with these answers, and nothing else. -/
structure Answered (s : State) (events : List PortEvent) (t : State) : Prop where
  held : heldRegisters t = heldRegisters s
  agenda : t.agenda = s.agenda
  values : ¬(s.mode = .dec ∧ s.phase = .header) → metaValues t = metaValues s
  src : s.src = srcAnswered events ++ t.src
  snk : s.snk = snkAnswered events ++ t.snk
  hist : t.hist = s.hist ++ events

theorem srcAnswered_append (xs ys : List PortEvent) : srcAnswered (xs ++ ys) = srcAnswered xs ++ srcAnswered ys :=
  List.filterMap_append

theorem snkAnswered_append (xs ys : List PortEvent) : snkAnswered (xs ++ ys) = snkAnswered xs ++ snkAnswered ys :=
  List.filterMap_append

@[simp] theorem srcAnswered_readByte (bs : List Byte) : srcAnswered (bs.map .readByte) = delivers bs := by
  simp [srcAnswered, delivers, List.filterMap_map]

@[simp] theorem snkAnswered_readByte (bs : List Byte) : snkAnswered (bs.map .readByte) = [] := by
  simp [snkAnswered]

@[simp] theorem srcAnswered_wrote (bs : List Byte) : srcAnswered (bs.map .wrote) = [] := by
  simp [srcAnswered]

@[simp] theorem snkAnswered_wrote (bs : List Byte) : snkAnswered (bs.map .wrote) = oks bs.length := by
  simp [snkAnswered, oks, List.filterMap_map]

@[simp] theorem length_oks (n : Nat) : (oks n).length = n :=
  List.length_replicate

@[simp] theorem length_delivers (bs : List Byte) : (delivers bs).length = bs.length :=
  List.length_map ..

namespace Answered

variable {s t u : State} {events events' : List PortEvent}

theorem cache (h : Answered s events t) : t.cache = s.cache := (congrArg State.cache h.held :)
theorem prev (h : Answered s events t) : t.prev = s.prev := (congrArg State.prev h.held :)
theorem run (h : Answered s events t) : t.run = s.run := (congrArg State.run h.held :)
theorem pixTotal (h : Answered s events t) : t.pixTotal = s.pixTotal := (congrArg State.pixTotal h.held :)
theorem pixDone (h : Answered s events t) : t.pixDone = s.pixDone := (congrArg State.pixDone h.held :)
theorem mode (h : Answered s events t) : t.mode = s.mode := (congrArg State.mode h.held :)
theorem phase (h : Answered s events t) : t.phase = s.phase := (congrArg State.phase h.held :)

theorem refl (s : State) : Answered s [] s := ⟨rfl, rfl, fun _ => rfl, rfl, rfl, (List.append_nil _).symm⟩

theorem trans (h : Answered s events t) (h' : Answered t events' u) : Answered s (events ++ events') u where
  held := h'.held.trans h.held
  agenda := h'.agenda.trans h.agenda
  values hheader := (h'.values (by rwa [h.mode, h.phase])).trans (h.values hheader)
  src := by rw [srcAnswered_append, List.append_assoc, ← h'.src, h.src]
  snk := by rw [snkAnswered_append, List.append_assoc, ← h'.snk, h.snk]
  hist := by rw [h'.hist, h.hist, List.append_assoc]

theorem reads {bs : List Byte} {rest : List SrcAnswer} (hsrc : s.src = delivers bs ++ rest) :
    Answered s (bs.map .readByte) (afterReads bs rest s) :=
  ⟨rfl, rfl, fun _ => rfl, by simpa using hsrc, by simp, rfl⟩

theorem writes {bs : List Byte} {rest : List SnkAnswer} (hsnk : s.snk = oks bs.length ++ rest) :
    Answered s (bs.map .wrote) (afterWrites bs rest s) :=
  ⟨rfl, rfl, fun _ => rfl, by simp, by simpa using hsnk, rfl⟩

/-- A source operation that is not answered with a byte. -/
theorem srcFailure {e : PortEvent} {rest : List SrcAnswer} (hsrc : s.src = srcAnswered [e] ++ rest)
    (hsnk : snkAnswered [e] = []) : Answered s [e] { s with src := rest, hist := s.hist ++ [e] } :=
  ⟨rfl, rfl, fun _ => rfl, hsrc, by rw [hsnk]; rfl, rfl⟩

/-- A sink operation that appends no byte to the sink stream. -/
theorem snkOther {e : PortEvent} {rest : List SnkAnswer} (hsnk : s.snk = snkAnswered [e] ++ rest) (hsrc : srcAnswered [e] = []) :
    Answered s [e] { s with snk := rest, hist := s.hist ++ [e] } :=
  ⟨rfl, rfl, fun _ => rfl, by rw [hsrc]; rfl, hsnk, rfl⟩

/-- An error raised after these operations is reported with its kind and byte (rules R300 to R302). -/
theorem errorReported (h : Answered s events t) (e : CoreError) :
    ErrorReported e.kind e.byte t.src t.snk events s (errorEntry e t) where
  phase := rfl
  kind := rfl
  byte := rfl
  mode := h.mode
  meta_kept hheader := by
    obtain ⟨hwidth, hheight, hchannels, hcolorspace⟩ := MetaValues.mk.inj (h.values hheader)
    have hheader' : ¬(t.mode = .dec ∧ t.phase = .header) := by rwa [h.mode, h.phase]
    simp only [errorEntry_metaWidth, errorEntry_metaHeight, errorEntry_metaChannels, errorEntry_metaColorspace, if_neg hheader']
    exact ⟨hwidth, hheight, hchannels, hcolorspace⟩
  src := rfl
  snk := rfl
  hist := h.hist
  agenda := h.agenda

end Answered

/-! ## Operations of a step that goes on or waits, and of one that raises an error -/

/-- A byte read or a byte written. -/
inductive IsByte : PortEvent → Prop where
  | read (b : Byte) : IsByte (.readByte b)
  | wrote (b : Byte) : IsByte (.wrote b)

/-- The operations of a step that has raised no error: bytes read up to `n` in all, and bytes written up to `m` in all. -/
structure Progress (n m : Nat) (s : State) (events : List PortEvent) (t : State) : Prop extends Answered s events t where
  isByte : ∀ e ∈ events, IsByte e
  rdBuf : ∃ bs, srcAnswered events = delivers bs ∧ t.rdBuf = s.rdBuf ++ bs
  wrCnt : t.wrCnt = s.wrCnt + (snkAnswered events).length
  rdBuf_le : t.rdBuf.length ≤ max s.rdBuf.length n
  wrCnt_le : t.wrCnt ≤ max s.wrCnt m

namespace Progress

variable {n m : Nat} {s t u : State} {events events' : List PortEvent}

theorem refl (s : State) : Progress n m s [] s :=
  { Answered.refl s with
    isByte := nofun
    rdBuf := ⟨[], rfl, (List.append_nil _).symm⟩
    wrCnt := rfl
    rdBuf_le := le_max_left ..
    wrCnt_le := le_max_left .. }

theorem trans (h : Progress n m s events t) (h' : Progress n m t events' u) : Progress n m s (events ++ events') u :=
  { h.toAnswered.trans h'.toAnswered with
    isByte := fun e he => (List.mem_append.1 he).elim (h.isByte e) (h'.isByte e)
    rdBuf := by
      obtain ⟨bs, hbs, hbuf⟩ := h.rdBuf
      obtain ⟨bs', hbs', hbuf'⟩ := h'.rdBuf
      exact ⟨bs ++ bs', by rw [srcAnswered_append, hbs, hbs', delivers_append], by rw [hbuf', hbuf, List.append_assoc]⟩
    wrCnt := by rw [h'.wrCnt, h.wrCnt, snkAnswered_append, List.length_append, Nat.add_assoc]
    rdBuf_le := by have := h.rdBuf_le; have := h'.rdBuf_le; omega
    wrCnt_le := by have := h.wrCnt_le; have := h'.wrCnt_le; omega }

theorem reads {bs : List Byte} {rest : List SrcAnswer} (hsrc : s.src = delivers bs ++ rest)
    (hn : s.rdBuf.length + bs.length ≤ max s.rdBuf.length n) : Progress n m s (bs.map .readByte) (afterReads bs rest s) :=
  { Answered.reads hsrc with
    isByte := fun e he => by obtain ⟨b, -, rfl⟩ := List.mem_map.1 he; exact .read b
    rdBuf := ⟨bs, srcAnswered_readByte bs, rfl⟩
    wrCnt := by simp
    rdBuf_le := by simpa using hn
    wrCnt_le := le_max_left .. }

theorem writes {bs : List Byte} {rest : List SnkAnswer} (hsnk : s.snk = oks bs.length ++ rest)
    (hm : s.wrCnt + bs.length ≤ max s.wrCnt m) : Progress n m s (bs.map .wrote) (afterWrites bs rest s) :=
  { Answered.writes hsnk with
    isByte := fun e he => by obtain ⟨b, -, rfl⟩ := List.mem_map.1 he; exact .wrote b
    rdBuf := ⟨[], srcAnswered_wrote bs, (List.append_nil _).symm⟩
    wrCnt := by simp
    rdBuf_le := le_max_left ..
    wrCnt_le := hm }

/-- A decode header may store its fields. -/
theorem ofHeader (hheader : s.mode = .dec ∧ s.phase = .header) (v : MetaValues) :
    Progress n m s [] { s with
      metaWidth := v.width, metaHeight := v.height, metaChannels := v.channels, metaColorspace := v.colorspace } :=
  { Progress.refl (n := n) (m := m) s with
    held := rfl
    values := fun h => absurd hheader h }

theorem reads_le (h : Progress n m s events t) : (srcAnswered events).length ≤ n := by
  obtain ⟨bs, hbs, hbuf⟩ := h.rdBuf
  have hle := h.rdBuf_le
  rw [hbuf, List.length_append] at hle
  rw [hbs, length_delivers]
  omega

theorem writes_le (h : Progress n m s events t) : (snkAnswered events).length ≤ m := by
  have hcount := h.wrCnt
  have hle := h.wrCnt_le
  omega

/-- Where the source leaves a byte unanswered, it had not all answers the step may ask for. -/
theorem src_lt (h : Progress n m s events t) (hsrc : t.src = []) (hlt : t.rdBuf.length < n) : s.src.length < n := by
  obtain ⟨bs, hbs, hbuf⟩ := h.rdBuf
  rw [hbuf, List.length_append] at hlt
  rw [h.src, hsrc, hbs, List.append_nil, length_delivers]
  omega

theorem snk_lt (h : Progress n m s events t) (hsnk : t.snk = []) (hlt : t.wrCnt < m) : s.snk.length < m := by
  have hcount := h.wrCnt
  rw [h.snk, hsnk, List.append_nil]
  omega

end Progress

/-- What raises an error: the last answer of a port, or an illegal header field. -/
inductive Cause : CoreError → List PortEvent → Prop where
  | eof {e : CoreError} (he : e = .invalidHeader ∨ e = .invalidDimensions ∨ e = .unexpectedEof) : Cause e [.readEof]
  | readIoErr : Cause .ioError [.readIoErr]
  | writeIoErr (b : Byte) : Cause .ioError [.writeIoErr b]
  | flushIoErr : Cause .ioError [.flushIoErr]
  | illegalHeader : Cause .invalidHeader []
  | illegalColorspace (b : Byte) : Cause (.invalidColorspace b) []

/-- From `s` on the engine has read and written bytes, and then an error is raised in `t`. -/
def Raised (s : State) (e : CoreError) (events : List PortEvent) (t : State) : Prop :=
  Answered s events t ∧ ∃ before last, events = before ++ last ∧ (∀ e ∈ before, IsByte e) ∧ Cause e last

theorem Raised.of_progress {n m : Nat} {s t u : State} {e : CoreError} {events last : List PortEvent}
    (h : Progress n m s events t) (hlast : Answered t last u) (hcause : Cause e last) : Raised s e (events ++ last) u :=
  ⟨h.toAnswered.trans hlast, events, last, rfl, h.isByte, hcause⟩

/-- What a run of port operations from `s` on does: it ends in a state with `P`, waits at a port, or raises an error. -/
def FlowDoes (n m : Nat) (s : State) (P : State → Prop) : Flow → Prop
  | .go t => (∃ events, Progress n m s events t) ∧ P t
  | .wait t => (∃ events, Progress n m s events t) ∧ (t.src = [] ∧ t.rdBuf.length < n ∨ t.snk = [] ∧ t.wrCnt < m)
  | .raise e t => ∃ events, Raised s e events t

section

variable {n m : Nat} {s t : State} {P Q : State → Prop} {f : Flow} {events : List PortEvent}

theorem FlowDoes.of_progress (h : Progress n m s events t) (hf : FlowDoes n m t P f) : FlowDoes n m s P f := by
  cases f with
  | go u =>
    obtain ⟨⟨events', hu⟩, hp⟩ := hf
    exact ⟨⟨_, h.trans hu⟩, hp⟩
  | wait u =>
    obtain ⟨⟨events', hu⟩, hwait⟩ := hf
    exact ⟨⟨_, h.trans hu⟩, hwait⟩
  | raise e u =>
    obtain ⟨events', hu, before, last, rfl, hbefore, hcause⟩ := hf
    refine ⟨_, h.toAnswered.trans hu, events ++ before, last, (List.append_assoc ..).symm, ?_, hcause⟩
    exact fun e he => (List.mem_append.1 he).elim (h.isByte e) (hbefore e)

theorem FlowDoes.imp (hf : FlowDoes n m s P f) (hpq : ∀ t events, Progress n m s events t → P t → Q t) : FlowDoes n m s Q f := by
  cases f with
  | go t =>
    obtain ⟨⟨events, ht⟩, hp⟩ := hf
    exact ⟨⟨events, ht⟩, hpq t events ht hp⟩
  | wait t => exact hf
  | raise e t => exact hf

theorem FlowDoes.andThen {k : State → Flow} (hf : FlowDoes n m s P f)
    (hk : ∀ t events, Progress n m s events t → P t → FlowDoes n m t Q (k t)) : FlowDoes n m s Q (f.andThen k) := by
  cases f with
  | go t =>
    obtain ⟨⟨events, ht⟩, hp⟩ := hf
    exact .of_progress ht (hk t events ht hp)
  | wait t => exact hf
  | raise e t => exact hf

theorem flowDoes_fill {k : Nat} {e : CoreError} (s : State) (hk : k ≤ n)
    (he : e = .invalidHeader ∨ e = .invalidDimensions ∨ e = .unexpectedEof) :
    FlowDoes n m s (fun t => k ≤ t.rdBuf.length ∧ metaValues t = metaValues s) (fill k e s) := by
  rw [fill]
  rcases readN_cases (k - s.rdBuf.length) e s with
    ⟨bs, rest, hlen, hsrc, hr⟩ | ⟨bs, hlen, hsrc, hr⟩ | ⟨bs, rest, hlen, hsrc, hr⟩ | ⟨bs, rest, hlen, hsrc, hr⟩ <;> rw [hr]
  · refine ⟨⟨_, .reads hsrc (by omega)⟩, ?_, rfl⟩
    rw [afterReads_rdBuf, List.length_append]
    omega
  · refine ⟨⟨_, .reads (by simpa using hsrc) (by omega)⟩, .inl ⟨rfl, ?_⟩⟩
    rw [afterReads_rdBuf, List.length_append]
    omega
  · exact ⟨_, Raised.of_progress (.reads (n := n) (m := m) hsrc (by omega)) (.srcFailure rfl rfl) (.eof he)⟩
  · exact ⟨_, Raised.of_progress (.reads (n := n) (m := m) hsrc (by omega)) (.srcFailure rfl rfl) .readIoErr⟩

theorem flowDoes_drain (out : List Byte) (s : State) (hm : out.length ≤ m) :
    FlowDoes n m s (fun _ => True) (drain out s) := by
  have hlen : (out.drop s.wrCnt).length = out.length - s.wrCnt := List.length_drop ..
  rw [drain]
  rcases putAll_cases (out.drop s.wrCnt) s with ⟨rest, hsnk, hr⟩ | ⟨k, hk, hsnk, hr⟩ | ⟨k, rest, hk, hsnk, hr⟩ <;> rw [hr]
  · exact ⟨⟨_, .writes hsnk (by omega)⟩, trivial⟩
  · have htake : ((out.drop s.wrCnt).take k).length = k := by rw [List.length_take]; omega
    refine ⟨⟨_, .writes (by simpa [htake] using hsnk) (by omega)⟩, .inr ⟨rfl, ?_⟩⟩
    rw [afterWrites_wrCnt, htake]
    omega
  · have htake : ((out.drop s.wrCnt).take k).length = k := by rw [List.length_take]; omega
    have hsnk' : s.snk = oks ((out.drop s.wrCnt).take k).length ++ .ioErr :: rest := by rw [htake, hsnk]
    exact ⟨_, Raised.of_progress (.writes (n := n) (m := m) hsnk' (by omega)) (.snkOther rfl rfl) (.writeIoErr _)⟩

/-- A raise of an illegal header field, with no port operation of its own. -/
theorem flowDoes_raise {e : CoreError} (s : State) (he : Cause e []) : FlowDoes n m s P (.raise e s) :=
  ⟨_, Raised.of_progress (.refl (n := n) (m := m) s) (.refl s) he⟩

end

/-! ## The engine step by its outcomes -/

/-- The most bytes a step reads in this phase. -/
def readLimit : Phase → Nat
  | .header => 14
  | .body => 5
  | _ => 0

/-- The most operations of the sink a step makes in this phase. -/
def writeLimit : Phase → Nat
  | .header => 14
  | .body => 6
  | .trailer => 9
  | .flush => 1
  | _ => 0

/-- The operations of a step of the phase that `s` is in. -/
abbrev StepProgress (s : State) (events : List PortEvent) (t : State) : Prop :=
  Progress (readLimit s.phase) (writeLimit s.phase) s events t

/-- An engine step from `s` that answers a next state, by what it did (rule R266). -/
inductive EngineStep (s : State) : State → Prop where
  | rest (hrest : s.phase.busy = false) : EngineStep s s
  | wait {events : List PortEvent} {t : State} (hbusy : s.phase.busy = true) (hops : StepProgress s events t)
    (hlack : s.src.length < readLimit s.phase ∨ s.snk.length < writeLimit s.phase) : EngineStep s t
  | raise {e : CoreError} {events : List PortEvent} {t : State} (hbusy : s.phase.busy = true)
    (hraised : Raised s e events t) : EngineStep s (errorEntry e t)
  | enterBody {events : List PortEvent} {t : State} (hphase : s.phase = .header) (hops : StepProgress s events t)
    (hch : channelsOk t.metaChannels = true) (hcs : colorspaceOk t.metaColorspace = true) : EngineStep s (enterBody t)
  | decPixel {p : Pixel} {run : BitVec 6} {events : List PortEvent} {t : State} (hat : AtDecodeStep s)
    (hops : StepProgress s events t) (hrun : run.toNat ≤ max s.run.toNat 61) : EngineStep s (finishPixel p run t)
  | encPixel {p : Pixel} {plan : EncPlan} {events : List PortEvent} {t : State} (hat : AtEncodeStep s)
    (hops : StepProgress s events t) (halpha : s.metaChannels ≠ 4 → p.a = s.prev.a)
    (hplan : encPlan s.cache s.run p s.prev = some plan) : EngineStep s (finishEncPixel p plan t)
  | leaveEncBody (hphase : s.phase = .body) (hmode : s.mode = .enc) (hdone : s.pixTotal ≤ s.pixDone) :
    EngineStep s { s with phase := .trailer }
  | leaveDecBody (hphase : s.phase = .body) (hmode : s.mode = .dec) (hdone : s.pixTotal ≤ s.pixDone) :
    EngineStep s (endStep { s with phase := .flush })
  | finish {events : List PortEvent} {t : State} (hphase : s.phase = .trailer) (hops : StepProgress s events t) :
    EngineStep s (endStep { t with run := 0, phase := .flush })
  | flush {rest : List SnkAnswer} (hphase : s.phase = .flush) (hsnk : s.snk = .ok :: rest) :
    EngineStep s (endStep { s with snk := rest, hist := s.hist ++ [.flushed], phase := .done })

/-- What a step answers: a next state as above, or a fault where the run counter is past 62. -/
def StepResult (s : State) : Result → Prop
  | .next t => EngineStep s t
  | .fault _ => s.phase.busy = true ∧ 62 < s.run.toNat
  | .refused _ => False

section

variable {s : State}

/-- A step of phase `ph` ends as its port operations end, or with what follows them. -/
theorem FlowDoes.settle {ph : Phase} {P : State → Prop} {f : Flow} {k : State → Result} (hphase : s.phase = ph)
    (hbusy : ph.busy = true) (hf : FlowDoes (readLimit ph) (writeLimit ph) s P f)
    (hk : ∀ t events, StepProgress s events t → P t → StepResult s (k t)) : StepResult s (f.settle k) := by
  subst hphase
  cases f with
  | go t =>
    obtain ⟨⟨events, ht⟩, hp⟩ := hf
    exact hk t events ht hp
  | wait t =>
    obtain ⟨⟨events, ht⟩, hwait⟩ := hf
    refine .wait hbusy ht (hwait.imp ?_ ?_)
    · exact fun ⟨hsrc, hlt⟩ => ht.src_lt hsrc hlt
    · exact fun ⟨hsnk, hlt⟩ => ht.snk_lt hsnk hlt
  | raise e t =>
    obtain ⟨events, ht⟩ := hf
    exact .raise hbusy ht

/-! ### The decode pixel step -/

theorem busy_of_phase {ph : Phase} (hphase : s.phase = ph) (hbusy : ph.busy = true) : s.phase.busy = true :=
  hphase ▸ hbusy

theorem stride_le (ch : Byte) : stride ch ≤ 4 := by
  unfold stride
  split <;> decide

theorem stepResult_completePixel {t : State} {events : List PortEvent} (p : Pixel) (run : BitVec 6) (hat : AtDecodeStep s)
    (ht : StepProgress s events t) (hrun : run.toNat ≤ max s.run.toNat 61) : StepResult s (completePixel p run t) := by
  have hlen : (pixelBytes t.metaChannels p).length ≤ 6 := by
    rw [length_pixelBytes]
    exact (stride_le _).trans (by decide)
  have hphase : s.phase = .body := hat.1
  rw [StepProgress, hphase] at ht
  refine FlowDoes.settle hphase rfl
    (.of_progress ht (flowDoes_drain _ t hlen)) fun u events' hu _ => ?_
  exact .decPixel hat hu hrun

theorem stepResult_exec {t : State} {events : List PortEvent} {i : Instr} (hwf : i.wellFormed = true) (hat : AtDecodeStep s)
    (ht : StepProgress s events t) : StepResult s (exec i t) := by
  rw [exec_eq i t hwf]
  refine stepResult_completePixel _ _ hat ht ?_
  cases i with
  | run count =>
    obtain ⟨hpos, hmax⟩ := (runCountOk_iff count).1 hwf
    have hcount : (count - 1).toNat = count.toNat - 1 := by bv_omega
    change (count - 1).toNat ≤ _
    omega
  | _ => exact ht.run ▸ le_max_left ..

theorem chunkLen_le (b0 : Byte) : chunkLen b0 ≤ 5 := by
  rcases kindOf_cases b0 with ⟨-, -, h⟩ | ⟨-, -, h⟩ | ⟨-, -, h⟩ | ⟨-, -, h⟩ | ⟨-, -, h⟩ | ⟨-, -, h⟩ <;> rw [h] <;> decide

/-- A fetch that ends has the bytes its leading byte asks for (rule R192). -/
theorem flowDoes_fetchChunk (s : State) :
    FlowDoes 5 6 s (fun t => ∃ b0 more, t.rdBuf = b0 :: more ∧ chunkLen b0 ≤ more.length + 1) (fetchChunk s) := by
  have heof : CoreError.unexpectedEof = .invalidHeader ∨ CoreError.unexpectedEof = .invalidDimensions ∨
    CoreError.unexpectedEof = .unexpectedEof := .inr (.inr rfl)
  refine (flowDoes_fill s (by decide) heof).andThen fun t events _ ⟨hlen, _⟩ => ?_
  obtain ⟨b0, more, hbuf⟩ : ∃ b0 more, t.rdBuf = b0 :: more := List.exists_cons_of_length_pos hlen
  rw [hbuf, List.headD_cons]
  refine (flowDoes_fill t (chunkLen_le b0) heof).imp fun u events' hu ⟨hlen', _⟩ => ?_
  obtain ⟨bs, -, hbuf'⟩ := hu.rdBuf
  rw [hbuf', hbuf] at hlen' ⊢
  exact ⟨b0, more ++ bs, rfl, by simpa using hlen'⟩

theorem stepResult_decPixelStep (hat : AtDecodeStep s) : StepResult s (decPixelStep s) := by
  have hphase : s.phase = .body := hat.1
  unfold decPixelStep
  split
  · next hrun =>
    refine stepResult_completePixel _ _ hat (.refl s) ?_
    have hlower : (s.run - 1).toNat = s.run.toNat - 1 := by bv_omega
    omega
  · refine FlowDoes.settle hphase rfl (flowDoes_fetchChunk s) ?_
    rintro t events ht ⟨b0, more, hbuf, hlen⟩
    obtain ⟨-, hlong⟩ := decode_answersByLength b0 more
    obtain ⟨i, rest, hchunk, hwf, -, -⟩ := hlong hlen
    simp only [hbuf, hchunk]
    exact stepResult_exec hwf hat ht

/-! ### The encode pixel step and the encode finish -/

theorem lt_of_openRunBytes_eq_none {run : BitVec 6} (h : openRunBytes run = none) : 62 < run.toNat := by
  by_contra hle
  obtain ⟨o, ho, -⟩ := openRunBytes_of_le (Nat.le_of_not_lt hle)
  exact nomatch h.symm.trans ho

theorem length_le_of_openRunBytes {run : BitVec 6} {o : List Byte} (h : openRunBytes run = some o) : o.length ≤ 1 := by
  unfold openRunBytes at h
  split at h
  · cases h
    exact Nat.zero_le 1
  · obtain ⟨-, rfl⟩ := encode_run_eq_some h
    exact le_rfl

/-- A plan is at most an open run and one chunk. -/
theorem length_le_of_encPlan {c : Slots} {run : BitVec 6} {p prev : Pixel} {plan : EncPlan}
    (h : encPlan c run p prev = some plan) : plan.out.length ≤ 6 := by
  obtain ⟨bytes, hbytes, hlen⟩ := encode_of_ne_run (selectOp_ne_run c p prev)
  unfold encPlan at h
  split at h
  · unfold planRepeat at h
    split at h
    · cases h
    · split at h
      · obtain ⟨out, hout, rfl⟩ := Option.map_eq_some_iff.1 h
        obtain ⟨-, rfl⟩ := encode_run_eq_some hout
        simp
      · cases h
        simp
  · cases hopen : openRunBytes run with
    | none => simp [planChange, hopen] at h
    | some o =>
      have hlen' := length_le_of_openRunBytes hopen
      simp only [planChange, hopen, hbytes, Option.some.injEq] at h
      subst h
      simp
      omega

/-- Only a run counter of 63 has no plan. -/
theorem lt_of_encPlan_eq_none {c : Slots} {run : BitVec 6} {p prev : Pixel} (h : encPlan c run p prev = none) :
    62 < run.toNat := by
  unfold encPlan at h
  split at h
  · unfold planRepeat at h
    split at h
    · next h63 => rw [h63]; decide
    · split at h
      · next hmax => rw [hmax] at h; exact nomatch h
      · exact nomatch h
  · obtain ⟨bytes, hbytes, -⟩ := encode_of_ne_run (selectOp_ne_run c p prev)
    cases hopen : openRunBytes run with
    | none => exact lt_of_openRunBytes_eq_none hopen
    | some o => simp [planChange, hopen, hbytes] at h

theorem stepResult_encPixelStep (hat : AtEncodeStep s) : StepResult s (encPixelStep s) := by
  have hphase : s.phase = .body := hat.1
  have hmode : s.mode = .enc := hat.2.1
  refine FlowDoes.settle hphase rfl
    (flowDoes_fill s ((stride_le _).trans (by decide)) (.inr (.inr rfl))) fun t events ht _ => ?_
  obtain ⟨-, -, hchannels, -⟩ := MetaValues.mk.inj (ht.values (by simp [hmode]))
  generalize hp : pixelOfBytes t.metaChannels t.prev t.rdBuf = p
  have halpha : s.metaChannels ≠ 4 → p.a = s.prev.a := by
    intro hne
    rw [← hp, pixelOfBytes, ← ht.prev]
    exact if_neg (by rwa [hchannels])
  unfold emitPixel
  rw [ht.cache, ht.run, ht.prev]
  split
  · next hnone => exact ⟨busy_of_phase hphase rfl, lt_of_encPlan_eq_none hnone⟩
  · next plan hplan =>
    rw [StepProgress, hphase] at ht
    refine FlowDoes.settle hphase rfl
      (.of_progress ht (flowDoes_drain _ t (length_le_of_encPlan hplan))) fun u events' hu _ => ?_
    exact .encPixel hat hu halpha hplan

theorem stepResult_encFinish (hphase : s.phase = .trailer) : StepResult s (encFinish s) := by
  have hbusy : s.phase.busy = true := busy_of_phase hphase rfl
  unfold encFinish
  split
  · next hnone => exact ⟨hbusy, lt_of_openRunBytes_eq_none hnone⟩
  · next o ho =>
    have hlen : (o ++ Config.trailer).length ≤ 9 := by
      have := length_le_of_openRunBytes ho
      simp [Config.trailer]
      omega
    refine FlowDoes.settle hphase rfl (flowDoes_drain _ s hlen) fun t events ht _ => ?_
    exact .finish hphase ht

/-! ### The headers -/

theorem stepResult_encHeader (hphase : s.phase = .header) (hmode : s.mode = .enc) : StepResult s (encHeader s) := by
  have hbusy : s.phase.busy = true := busy_of_phase hphase rfl
  have hraise (e : CoreError) (he : Cause e []) : StepResult s (.next (errorEntry e s)) :=
    .raise hbusy (Raised.of_progress (.refl (n := 0) (m := 0) s) (.refl s) he)
  unfold encHeader
  split
  · exact hraise _ .illegalHeader
  · split
    · exact hraise _ (.illegalColorspace _)
    · next hch hcs =>
      refine FlowDoes.settle hphase rfl
        (flowDoes_drain _ s (le_refl 14)) fun t events ht _ => ?_
      obtain ⟨-, -, hchannels, hcolorspace⟩ := MetaValues.mk.inj (ht.values (by simp [hmode]))
      refine .enterBody hphase ht ?_ ?_
      · rw [hchannels]
        exact Bool.not_eq_false _ ▸ hch
      · rw [hcolorspace]
        exact Bool.not_eq_false _ ▸ hcs

/-- The engine reads the header of a decode call. -/
def InDecHeader (s : State) : Prop := s.mode = .dec ∧ s.phase = .header

theorem InDecHeader.of_progress {n m : Nat} {t : State} {events : List PortEvent} (hs : InDecHeader s)
    (h : Progress n m s events t) : InDecHeader t :=
  ⟨h.mode.trans hs.1, h.phase.trans hs.2⟩

theorem flowDoes_decMagic (s : State) : FlowDoes 14 14 s (fun _ => True) (decMagic s) := by
  refine (flowDoes_fill s (by decide) (.inl rfl)).andThen fun t events _ _ => ?_
  split
  · exact ⟨⟨_, .refl t⟩, trivial⟩
  · exact flowDoes_raise t .illegalHeader

theorem flowDoes_decDimensions (hs : InDecHeader s) : FlowDoes 14 14 s (fun _ => True) (decDimensions s) := by
  refine (flowDoes_fill s (by decide) (.inr (.inl rfl))).andThen fun t events ht _ => ?_
  have ht' := hs.of_progress ht
  have hwidth := Progress.ofHeader (n := 14) (m := 14) ht' { metaValues t with width := wordAt t.rdBuf 4 }
  refine .of_progress hwidth ((flowDoes_fill _ (by decide) (.inr (.inl rfl))).andThen fun u events' hu _ => ?_)
  have hu' := (ht'.of_progress hwidth).of_progress hu
  exact ⟨⟨_, Progress.ofHeader hu' { metaValues u with height := wordAt u.rdBuf 8 }⟩, trivial⟩

theorem flowDoes_decChannels (hs : InDecHeader s) :
    FlowDoes 14 14 s (fun t => channelsOk t.metaChannels = true) (decChannels s) := by
  refine (flowDoes_fill s (by decide) (.inr (.inr rfl))).andThen fun t events ht _ => ?_
  split
  · next hch => exact ⟨⟨_, Progress.ofHeader (hs.of_progress ht) { metaValues t with channels := t.rdBuf.getD 12 0 }⟩, hch⟩
  · exact flowDoes_raise t .illegalHeader

theorem flowDoes_decColorspace (hs : InDecHeader s) (hch : channelsOk s.metaChannels = true) :
    FlowDoes 14 14 s (fun t => channelsOk t.metaChannels = true ∧ colorspaceOk t.metaColorspace = true) (decColorspace s) := by
  refine (flowDoes_fill s (by decide) (.inr (.inr rfl))).andThen fun t events ht ⟨_, hvalues⟩ => ?_
  split
  · next hcs =>
    refine ⟨⟨_, Progress.ofHeader (hs.of_progress ht) { metaValues t with colorspace := t.rdBuf.getD 13 0 }⟩, ?_, hcs⟩
    exact (congrArg (fun v => channelsOk v.channels) hvalues).trans hch
  · exact flowDoes_raise t (.illegalColorspace _)

theorem stepResult_decHeader (hs : InDecHeader s) : StepResult s (decHeader s) := by
  have hphase : s.phase = .header := hs.2
  refine FlowDoes.settle hphase rfl
    ((((flowDoes_decMagic s).andThen fun t _ ht _ => flowDoes_decDimensions (hs.of_progress ht)).andThen
      fun t _ ht _ => flowDoes_decChannels (hs.of_progress ht)).andThen
        fun t _ ht hch => flowDoes_decColorspace (hs.of_progress ht) hch) fun t events ht ⟨hch, hcs⟩ => ?_
  exact .enterBody hphase ht hch hcs

/-! ### All phases -/

theorem stepResult_bodyStep (hphase : s.phase = .body) : StepResult s (bodyStep s) := by
  unfold bodyStep
  split
  · next hlt =>
    cases hmode : s.mode with
    | enc => exact stepResult_encPixelStep ⟨hphase, hmode, hlt⟩
    | dec => exact stepResult_decPixelStep ⟨hphase, hmode, hlt⟩
  · next hge =>
    have hdone : s.pixTotal ≤ s.pixDone := BitVec.not_lt.1 hge
    cases hmode : s.mode with
    | enc => exact .leaveEncBody hphase hmode hdone
    | dec => exact .leaveDecBody hphase hmode hdone

theorem stepResult_headerStep (hphase : s.phase = .header) : StepResult s (headerStep s) := by
  unfold headerStep
  cases hmode : s.mode with
  | enc => exact stepResult_encHeader hphase hmode
  | dec => exact stepResult_decHeader ⟨hmode, hphase⟩

theorem stepResult_flushStep (hphase : s.phase = .flush) : StepResult s (flushStep s) := by
  have hbusy : s.phase.busy = true := busy_of_phase hphase rfl
  unfold flushStep snkFlush
  cases hsnk : s.snk with
  | nil => exact .wait hbusy (.refl s) (.inr (by rw [hsnk, hphase]; decide))
  | cons a rest =>
    cases a with
    | ok => exact .flush hphase hsnk
    | ioErr =>
      have hfail : Answered s [.flushIoErr] { s with snk := rest, hist := s.hist ++ [.flushIoErr] } := .snkOther hsnk rfl
      exact .raise hbusy (Raised.of_progress (.refl (n := 0) (m := 0) s) hfail .flushIoErr)

/-- Whatever an engine step does is one of the outcomes above. -/
theorem stepResult_engineStep (s : State) : StepResult s (engineStep s) := by
  unfold engineStep
  cases hphase : s.phase with
  | idle | done | error => exact .rest (by rw [hphase]; rfl)
  | header => exact stepResult_headerStep hphase
  | body => exact stepResult_bodyStep hphase
  | trailer => exact stepResult_encFinish hphase
  | flush => exact stepResult_flushStep hphase

theorem engineStep_cases {t : State} (h : engineStep s = .next t) : EngineStep s t := by
  have hresult := stepResult_engineStep s
  rwa [h] at hresult

end

end Sys2Proof
end

section
/-! Legal states (rules R23 to R25, R31, R35 to R38, R161): the invariant holds after reset, every outcome of an engine step and
every host event keeps it, and a legal state always has a next one. -/

namespace Sys2Proof.Machine

/-! ## The cache invariant -/

theorem slotsOk_replicate_clear : SlotsOk (Vector.replicate 64 .clear) :=
  fun i => .inl (lookup_replicate _ i)

theorem SlotsOk.insert {c : Slots} (h : SlotsOk c) (p : Pixel) : SlotsOk (cacheInsert c p) := by
  intro i
  by_cases hi : i = pixelHash p
  · rw [hi, lookup_cacheInsert_same]
    exact .inr rfl
  · rw [lookup_cacheInsert_other c p i hi]
    exact h i

/-! ## Legal states by what changes -/

theorem Inv.errKind_eq_none {s : State} (h : Inv s) (hphase : s.phase ≠ .error) : s.errKind = .none := by
  by_contra hne
  exact hphase (h.errKind_iff.1 hne)

theorem Inv.errByte_eq_zero {s : State} (h : Inv s) (hphase : s.phase ≠ .error) : s.errByte = 0 :=
  h.errByte_zero (by rw [h.errKind_eq_none hphase]; nofun)

theorem ne_error_of_busy {s : State} (h : s.phase.busy = true) : s.phase ≠ .error := by
  intro he
  rw [he] at h
  cases h

/-- `META_*` may change outside a call's body and end, and the progress of a step within a call; everything outside the
engine may change. -/
theorem Inv.of_held {s t : State} (h : Inv s) (hheld : heldRegisters t = heldRegisters s)
    (hvalues : s.phase.afterHeader = true → metaValues t = metaValues s)
    (hclean : s.phase.busy = false → t.rdBuf = [] ∧ t.wrCnt = 0) : Inv t := by
  have hcache : t.cache = s.cache := (congrArg State.cache hheld :)
  have hprev : t.prev = s.prev := (congrArg State.prev hheld :)
  have hrun : t.run = s.run := (congrArg State.run hheld :)
  have htotal : t.pixTotal = s.pixTotal := (congrArg State.pixTotal hheld :)
  have hdone : t.pixDone = s.pixDone := (congrArg State.pixDone hheld :)
  have hmode : t.mode = s.mode := (congrArg State.mode hheld :)
  have hphase : t.phase = s.phase := (congrArg State.phase hheld :)
  have hkind : t.errKind = s.errKind := (congrArg State.errKind hheld :)
  have hbyte : t.errByte = s.errByte := (congrArg State.errByte hheld :)
  refine ⟨?_, ?_, ?_, ?_, ?_, ?_, ?_, ?_, ?_, ?_, ?_, ?_⟩ <;>
    simp only [hcache, hprev, hrun, htotal, hdone, hmode, hphase, hkind, hbyte]
  · exact h.errKind_iff
  · exact h.raised
  · exact h.errByte_zero
  · exact h.run_le
  · exact h.slots
  · exact h.count_le
  · exact h.fresh
  · exact h.trailer_enc
  · intro hafter
    obtain ⟨hwidth, hheight, hchannels, hcolorspace⟩ := MetaValues.mk.inj (hvalues hafter)
    rw [hwidth, hheight, hchannels, hcolorspace]
    exact h.meta_ok hafter
  · exact h.all_done
  · intro henc hafter
    obtain ⟨-, -, hchannels, -⟩ := MetaValues.mk.inj (hvalues hafter)
    rw [hchannels]
    exact h.alpha_full henc hafter
  · exact hclean

theorem inv_agenda {s : State} (h : Inv s) (agenda : List (Nat × HostEvent)) : Inv { s with agenda := agenda } :=
  h.of_held rfl (fun _ => rfl) h.idle_clean

/-- Port operations of a step in progress keep a state legal. -/
theorem Inv.of_answered {s t : State} {events : List PortEvent} (h : Inv s) (ht : Answered s events t)
    (hbusy : s.phase.busy = true) : Inv t := by
  refine h.of_held ht.held (fun hafter => ht.values ?_) (fun hrest => nomatch hbusy.symm.trans hrest)
  rintro ⟨-, hheader⟩
  rw [hheader] at hafter
  cases hafter

/-! ## Errors -/

/-- An error that is raised has a kind that can be raised, and its byte is 0 unless the kind carries one (rules R290, R294,
R296, R300). -/
theorem inv_errorEntry {e : CoreError} {last : List PortEvent} (s : State) (h : Cause e last) : Inv (errorEntry e s) := by
  have hkind : e.kind ≠ .none ∧ (e.kind ≠ .invalidIndex ∧ e.kind ≠ .unknownTag) ∧
      (e.kind ≠ .invalidColorspace → e.byte = 0) := by
    cases h with
    | eof he => rcases he with rfl | rfl | rfl <;> exact ⟨nofun, ⟨nofun, nofun⟩, fun _ => rfl⟩
    | readIoErr | writeIoErr | flushIoErr | illegalHeader => exact ⟨nofun, ⟨nofun, nofun⟩, fun _ => rfl⟩
    | illegalColorspace b => exact ⟨nofun, ⟨nofun, nofun⟩, fun hne => absurd rfl hne⟩
  obtain ⟨hnone, hraised, hbyte⟩ := hkind
  exact {
    errKind_iff := iff_of_true hnone rfl
    raised := hraised
    errByte_zero := hbyte
    run_le := absurd rfl
    slots := absurd rfl
    count_le := absurd rfl
    fresh := nofun
    trailer_enc := nofun
    meta_ok := nofun
    all_done := nofun
    alpha_full := nofun
    idle_clean := fun _ => ⟨rfl, rfl⟩ }

/-! ## Calls -/

/-- The first three clauses of the invariant where no error is recorded. -/
theorem errorClauses_of_none {s : State} (hphase : s.phase ≠ .error) (hkind : s.errKind = .none) (hbyte : s.errByte = 0) :
    (s.errKind ≠ .none ↔ s.phase = .error) ∧ (s.errKind ≠ .invalidIndex ∧ s.errKind ≠ .unknownTag) ∧
      (s.errKind ≠ .invalidColorspace → s.errByte = 0) := by
  rw [hkind, hbyte]
  exact ⟨iff_of_false (absurd rfl) hphase, ⟨nofun, nofun⟩, fun _ => rfl⟩

/-- The initialised codec state and counters, outside a call or at its beginning (rules R28, R330). -/
theorem inv_of_initialised {s : State} (hphase : s.phase = .idle ∨ s.phase = .header)
    (hcodec : s.cache = Vector.replicate 64 .clear ∧ s.prev = .black ∧ s.run = 0 ∧ s.pixDone = 0 ∧ s.pixTotal = 0)
    (herror : s.errKind = .none ∧ s.errByte = 0) (hclean : s.rdBuf = [] ∧ s.wrCnt = 0) : Inv s := by
  have hbefore : s.phase ≠ .error ∧ s.phase ≠ .trailer ∧ s.phase ≠ .flush ∧ s.phase ≠ .done ∧ s.phase.afterHeader = false := by
    rcases hphase with h | h <;> rw [h] <;> exact ⟨nofun, nofun, nofun, nofun, rfl⟩
  obtain ⟨hne, htrailer, hflush, hdone, hafter⟩ := hbefore
  obtain ⟨hiff, hraised, hbyte⟩ := errorClauses_of_none hne herror.1 herror.2
  have ⟨hcache, _, hrun, hpixDone, hpixTotal⟩ := hcodec
  exact {
    errKind_iff := hiff
    raised := hraised
    errByte_zero := hbyte
    run_le := fun _ => by rw [hrun]; decide
    slots := fun _ => by rw [hcache]; exact slotsOk_replicate_clear
    count_le := fun _ => by rw [hpixDone, hpixTotal]; exact BitVec.le_refl _
    fresh := fun _ => hcodec
    trailer_enc := fun h => absurd h htrailer
    meta_ok := fun h => nomatch hafter.symm.trans h
    all_done := fun h => (h.elim htrailer fun h => h.elim hflush hdone).elim
    alpha_full := fun _ h => nomatch hafter.symm.trans h
    idle_clean := fun _ => hclean }

theorem inv_startCall (m : Mode) (s : State) : Inv (startCall m s) :=
  inv_of_initialised (.inr rfl) ⟨rfl, rfl, rfl, rfl, rfl⟩ ⟨rfl, rfl⟩ ⟨rfl, rfl⟩

theorem inv_hwReset (s : State) : Inv (hwReset s) :=
  inv_of_initialised (.inl rfl) ⟨rfl, rfl, rfl, rfl, rfl⟩ ⟨rfl, rfl⟩ ⟨rfl, rfl⟩

/-- The body starts from the codec state a call starts from, with legal metadata (rules R253, R260). -/
theorem Inv.enterBody {s : State} (h : Inv s) (hphase : s.phase = .header) (hch : channelsOk s.metaChannels = true)
    (hcs : colorspaceOk s.metaColorspace = true) : Inv (enterBody s) := by
  have hne : s.phase ≠ .error := by rw [hphase]; nofun
  obtain ⟨-, hprev, -, -, -⟩ := h.fresh hphase
  obtain ⟨hiff, hraised, hbyte⟩ := errorClauses_of_none (s := Machine.enterBody s) nofun (h.errKind_eq_none hne)
    (h.errByte_eq_zero hne)
  exact {
    errKind_iff := hiff
    raised := hraised
    errByte_zero := hbyte
    run_le := fun _ => h.run_le hne
    slots := fun _ => h.slots hne
    count_le := fun _ => BitVec.le_def.2 (Nat.zero_le _)
    fresh := nofun
    trailer_enc := nofun
    meta_ok := fun _ => ⟨hch, hcs, rfl⟩
    all_done := nofun
    alpha_full := fun _ _ _ => congrArg Pixel.a hprev
    idle_clean := nofun }

theorem add_one_le_of_lt {done total : BitVec 64} (h : done < total) : done + 1 ≤ total := by
  bv_omega

/-- A pixel step keeps a body legal: one pixel more is done, and the codec state is legal again. -/
theorem Inv.pixelDone {s t : State} (h : Inv s) (hphase : s.phase = .body) (hlt : s.pixDone < s.pixTotal)
    (hheld : heldRegisters t = heldRegisters { s with cache := t.cache, prev := t.prev, run := t.run, pixDone := s.pixDone + 1 })
    (hvalues : metaValues t = metaValues s) (hrun : t.run.toNat ≤ 61) (hslots : SlotsOk t.cache)
    (halpha : s.mode = .enc → s.metaChannels = 3 → t.prev.a = 255) : Inv t := by
  have hne : s.phase ≠ .error := by rw [hphase]; nofun
  have hphase' : t.phase = .body := (congrArg State.phase hheld :).trans hphase
  have hmode : t.mode = s.mode := (congrArg State.mode hheld :)
  have hdone : t.pixDone = s.pixDone + 1 := (congrArg State.pixDone hheld :)
  have htotal : t.pixTotal = s.pixTotal := (congrArg State.pixTotal hheld :)
  obtain ⟨hwidth, hheight, hchannels, hcolorspace⟩ := MetaValues.mk.inj hvalues
  obtain ⟨hiff, hraised, hbyte⟩ := errorClauses_of_none (s := t) (by rw [hphase']; nofun)
    ((congrArg State.errKind hheld :).trans (h.errKind_eq_none hne))
    ((congrArg State.errByte hheld :).trans (h.errByte_eq_zero hne))
  exact {
    errKind_iff := hiff
    raised := hraised
    errByte_zero := hbyte
    run_le := fun _ => hrun
    slots := fun _ => hslots
    count_le := fun _ => by rw [hdone, htotal]; exact add_one_le_of_lt hlt
    fresh := by rw [hphase']; nofun
    trailer_enc := by rw [hphase']; nofun
    meta_ok := fun _ => by
      rw [hwidth, hheight, hchannels, hcolorspace, htotal]
      exact h.meta_ok (by rw [hphase]; rfl)
    all_done := by rw [hphase']; nofun
    alpha_full := fun henc _ h3 => halpha (hmode ▸ henc) (hchannels ▸ h3)
    idle_clean := by rw [hphase']; nofun }

theorem Inv.finishPixel {s : State} {p : Pixel} {run : BitVec 6} (h : Inv s) (hat : AtDecodeStep s) (hrun : run.toNat ≤ 61) :
    Inv (finishPixel p run s) := by
  obtain ⟨hphase, hmode, hlt⟩ := hat
  have hslots := h.slots (by rw [hphase]; nofun)
  refine h.pixelDone hphase hlt ?_ ?_ (by simpa using hrun) ?_ (fun henc => nomatch hmode.symm.trans henc)
  · rw [finishPixel_eq]
    rfl
  · rw [finishPixel_eq]
    rfl
  · rw [finishPixel_cache]
    split
    · exact hslots
    · exact hslots.insert p

/-- A plan made in a legal codec state leaves one (rules R23 to R25). -/
theorem encPlan_legal {c : Slots} {run : BitVec 6} {p prev : Pixel} {plan : EncPlan} (hrun : run.toNat ≤ 61) (hslots : SlotsOk c)
    (hplan : encPlan c run p prev = some plan) : plan.run.toNat ≤ 61 ∧ SlotsOk plan.cache := by
  rcases encPlan_cases c p prev hrun with ⟨-, hlt, heq⟩ | ⟨-, o, -, -, heq⟩ | ⟨-, o, bytes, -, -, -, -, heq⟩ <;>
    obtain rfl := Option.some.inj (heq.symm.trans hplan)
  · exact ⟨by bv_omega, hslots⟩
  · exact ⟨by simp, hslots⟩
  · exact ⟨by simp, hslots.insert p⟩

theorem Inv.finishEncPixel {s : State} {p : Pixel} {plan : EncPlan} (h : Inv s) (hat : AtEncodeStep s)
    (halpha : s.metaChannels ≠ 4 → p.a = s.prev.a) (hplan : encPlan s.cache s.run p s.prev = some plan) :
    Inv (finishEncPixel p plan s) := by
  obtain ⟨hphase, hmode, hlt⟩ := hat
  have hne : s.phase ≠ .error := by rw [hphase]; nofun
  obtain ⟨hrun, hslots⟩ := encPlan_legal (h.run_le hne) (h.slots hne) hplan
  refine h.pixelDone hphase hlt rfl rfl hrun hslots fun henc h3 => ?_
  exact (halpha (by rw [h3]; decide)).trans (h.alpha_full henc (by rw [hphase]; rfl) h3)

/-- With every pixel done a call goes on to its end: to `TRAILER`, `FLUSH` or `DONE`, the run counter as it stands or 0. -/
theorem Inv.advance {s t : State} (h : Inv s) (hafter : s.phase.afterHeader = true) (hdone : s.pixDone = s.pixTotal)
    (hphase : t.phase = .trailer ∧ s.mode = .enc ∨ t.phase = .flush ∨ t.phase = .done)
    (hheld : heldRegisters t = heldRegisters { s with phase := t.phase, run := t.run }) (hvalues : metaValues t = metaValues s)
    (hrun : t.run = s.run ∨ t.run = 0) (hclean : t.phase = .done → t.rdBuf = [] ∧ t.wrCnt = 0) : Inv t := by
  have hne : s.phase ≠ .error := by
    intro he
    rw [he] at hafter
    cases hafter
  have hcache : t.cache = s.cache := (congrArg State.cache hheld :)
  have hprev : t.prev = s.prev := (congrArg State.prev hheld :)
  have hmode : t.mode = s.mode := (congrArg State.mode hheld :)
  have hdone' : t.pixDone = t.pixTotal :=
    (congrArg State.pixDone hheld :).trans (hdone.trans (congrArg State.pixTotal hheld :).symm)
  have htotal : t.pixTotal = s.pixTotal := (congrArg State.pixTotal hheld :)
  obtain ⟨hwidth, hheight, hchannels, hcolorspace⟩ := MetaValues.mk.inj hvalues
  have hne' : t.phase ≠ .error := by rcases hphase with ⟨he, -⟩ | he | he <;> rw [he] <;> nofun
  obtain ⟨hiff, hraised, hbyte⟩ := errorClauses_of_none hne'
    ((congrArg State.errKind hheld :).trans (h.errKind_eq_none hne))
    ((congrArg State.errByte hheld :).trans (h.errByte_eq_zero hne))
  exact {
    errKind_iff := hiff
    raised := hraised
    errByte_zero := hbyte
    run_le := fun _ => by
      rcases hrun with he | he <;> rw [he]
      · exact h.run_le hne
      · exact Nat.zero_le _
    slots := fun _ => by rw [hcache]; exact h.slots hne
    count_le := fun _ => by rw [hdone']; exact BitVec.le_refl _
    fresh := by rcases hphase with ⟨he, -⟩ | he | he <;> rw [he] <;> nofun
    trailer_enc := by
      rcases hphase with ⟨-, henc⟩ | he | he
      · exact fun _ => hmode.trans henc
      · rw [he]; nofun
      · rw [he]; nofun
    meta_ok := fun _ => by
      rw [hwidth, hheight, hchannels, hcolorspace, htotal]
      exact h.meta_ok hafter
    all_done := fun _ => hdone'
    alpha_full := fun henc _ h3 => by rw [hprev]; exact h.alpha_full (hmode ▸ henc) hafter (hchannels ▸ h3)
    idle_clean := by
      rcases hphase with ⟨he, -⟩ | he | he
      · rw [he]; nofun
      · rw [he]; nofun
      · exact fun _ => hclean he }

/-! ## Every engine step and every host event -/

theorem Inv.engineStep {s t : State} (h : Inv s) (hstep : EngineStep s t) : Inv t := by
  cases hstep with
  | rest => exact h
  | wait hbusy hops => exact h.of_answered hops.toAnswered hbusy
  | raise hbusy hraised =>
    obtain ⟨-, -, last, -, -, hcause⟩ := hraised
    exact inv_errorEntry _ hcause
  | @enterBody events t hphase hops hch hcs =>
    have ht := h.of_answered hops.toAnswered (by rw [hphase]; rfl)
    exact ht.enterBody (hops.phase.trans hphase) hch hcs
  | @decPixel p run events t hat hops hrun =>
    obtain ⟨hphase, hmode, hlt⟩ := hat
    have ht := h.of_answered hops.toAnswered (by rw [hphase]; rfl)
    have hle := h.run_le (by rw [hphase]; nofun)
    refine ht.finishPixel ⟨hops.phase.trans hphase, hops.mode.trans hmode, ?_⟩ (hrun.trans (max_le hle le_rfl))
    rwa [hops.pixDone, hops.pixTotal]
  | @encPixel p plan events t hat hops halpha hplan =>
    obtain ⟨hphase, hmode, hlt⟩ := hat
    have ht := h.of_answered hops.toAnswered (by rw [hphase]; rfl)
    obtain ⟨-, -, hchannels, -⟩ := MetaValues.mk.inj (hops.values (by simp [hmode]))
    refine ht.finishEncPixel ⟨hops.phase.trans hphase, hops.mode.trans hmode, ?_⟩ ?_ ?_
    · rwa [hops.pixDone, hops.pixTotal]
    · rwa [hops.prev, hchannels]
    · rwa [hops.cache, hops.run, hops.prev]
  | leaveEncBody hphase hmode hdone =>
    have hle := h.count_le (by rw [hphase]; nofun)
    exact h.advance (by rw [hphase]; rfl) (BitVec.le_antisymm hle hdone) (.inl ⟨rfl, hmode⟩) rfl rfl (.inl rfl) nofun
  | leaveDecBody hphase hmode hdone =>
    have hle := h.count_le (by rw [hphase]; nofun)
    exact h.advance (by rw [hphase]; rfl) (BitVec.le_antisymm hle hdone) (.inr (.inl rfl)) rfl rfl (.inl rfl) nofun
  | @finish events t hphase hops =>
    have ht := h.of_answered hops.toAnswered (by rw [hphase]; rfl)
    have hphase' : t.phase = .trailer := hops.phase.trans hphase
    exact ht.advance (by rw [hphase']; rfl) (ht.all_done (.inl hphase')) (.inr (.inl rfl)) rfl rfl (.inr rfl) nofun
  | flush hphase hsnk =>
    exact h.advance (by rw [hphase]; rfl) (h.all_done (.inr (.inl hphase))) (.inr (.inr rfl)) rfl rfl (.inl rfl)
      fun _ => ⟨rfl, rfl⟩

theorem Inv.command {s : State} (h : Inv s) (m : Mode) : Inv (command m s) := by
  unfold Machine.command
  split
  · exact h
  · exact inv_startCall m s

theorem Inv.hostWrite {s : State} (h : Inv s) (w : MetaWrite) : Inv (hostWrite w s) := by
  unfold Machine.hostWrite
  split
  · exact h
  · next hbusy =>
    have hrest : s.phase.afterHeader = true → metaValues (writeMeta w s) = metaValues s := by
      intro hafter
      cases hphase : s.phase <;> rw [hphase] at hbusy hafter <;> simp [Phase.busy, Phase.afterHeader] at hbusy hafter
    cases w <;> exact h.of_held rfl hrest h.idle_clean

theorem Inv.applyEvent {s : State} (h : Inv s) (e : HostEvent) : Inv (applyEvent e s) := by
  cases e with
  | startEnc => exact h.command .enc
  | startDec => exact h.command .dec
  | write w => exact h.hostWrite w
  | reset => exact inv_hwReset s
  | srcAnswers as => exact h.of_held rfl (fun _ => rfl) h.idle_clean
  | snkAnswers as => exact h.of_held rfl (fun _ => rfl) h.idle_clean

/-- A step is a host event or an engine step; either way the agenda alone changes before it (log entry 2). -/
theorem step_eq (s : State) : (∃ e agenda, step s = .next (applyEvent e { s with agenda := agenda })) ∨
    ∃ agenda, step s = Machine.engineStep { s with agenda := agenda } := by
  unfold step turn
  split
  · next hnil => exact .inr ⟨s.agenda, rfl⟩
  · next e rest _ => exact .inl ⟨e, rest, rfl⟩
  · next n e rest _ => exact .inr ⟨(n, e) :: rest, rfl⟩

/-- Settles O50: the reset state is the one a hardware reset leaves, with nothing outside the engine. -/
theorem resetIsLegal : Obligations.ResetIsLegal :=
  inv_hwReset State.reset

/-- Settles O51: the invariant is kept by each host event and by each outcome of an engine step. -/
theorem stepKeepsLegal : Obligations.StepKeepsLegal := by
  intro s s' h hstep
  rcases step_eq s with ⟨e, agenda, heq⟩ | ⟨agenda, heq⟩ <;> rw [heq] at hstep
  · cases hstep
    exact (inv_agenda h agenda).applyEvent e
  · exact (inv_agenda h agenda).engineStep (engineStep_cases hstep)

/-- An engine step can stop only at a run counter past 62, and no legal state holds one. -/
theorem Inv.engineStep_next {s : State} (h : Inv s) : ∃ t, Machine.engineStep s = .next t := by
  have hresult := stepResult_engineStep s
  cases hstep : Machine.engineStep s with
  | next t => exact ⟨t, rfl⟩
  | fault r =>
    rw [hstep] at hresult
    obtain ⟨hbusy, hrun⟩ := hresult
    have hle := h.run_le (ne_error_of_busy hbusy)
    omega
  | refused r =>
    rw [hstep] at hresult
    exact hresult.elim

/-- Settles O52: a host event always has its next state, and so has an engine step from a legal state. -/
theorem legalStatesNeverStop : Obligations.LegalStatesNeverStop := by
  intro s h
  rcases step_eq s with ⟨e, agenda, heq⟩ | ⟨agenda, heq⟩ <;> rw [heq]
  · exact ⟨_, rfl⟩
  · exact (inv_agenda h agenda).engineStep_next

end Sys2Proof.Machine
end

section
/-! What every engine step keeps, read off its outcomes: the phases it leads to (rule R266), its port operations and their
answers (rules R52, R55, R66, R67), and the errors of the ports (rules R297, R300). -/

namespace Sys2Proof

open Machine

/-! ## Phases -/

theorem EngineStep.mode {s t : State} (h : EngineStep s t) : t.mode = s.mode := by
  cases h with
  | rest | leaveEncBody | leaveDecBody | flush => rfl
  | wait _ hops | enterBody _ hops | encPixel _ hops | finish _ hops => exact hops.mode
  | raise _ hraised => exact hraised.1.mode
  | decPixel _ hops => exact (finishPixel_mode ..).trans hops.mode

/-- A phase can always be kept while a step waits, and while busy be left for `ERROR`. -/
theorem mem_engineMoves_self (m : Mode) (ph : Phase) : ph ∈ engineMoves m ph := by
  cases m <;> cases ph <;> simp [engineMoves]

theorem error_mem_engineMoves (m : Mode) {ph : Phase} (h : ph.busy = true) : .error ∈ engineMoves m ph := by
  cases ph with
  | idle | done | error => cases h
  | header | body | trailer | flush => cases m <;> simp [engineMoves]

theorem EngineStep.phase_mem {s t : State} (h : EngineStep s t) : t.phase ∈ engineMoves s.mode s.phase := by
  cases h with
  | rest => exact mem_engineMoves_self ..
  | wait _ hops => exact hops.phase ▸ mem_engineMoves_self ..
  | raise hbusy => exact error_mem_engineMoves _ hbusy
  | enterBody hphase => rw [hphase]; cases s.mode <;> simp [engineMoves]
  | decPixel hat hops => exact (finishPixel_phase ..).trans hops.phase ▸ mem_engineMoves_self ..
  | encPixel hat hops => exact hops.phase ▸ mem_engineMoves_self ..
  | leaveEncBody hphase hmode => simp [hphase, hmode, engineMoves]
  | leaveDecBody hphase hmode => simp [hphase, hmode, engineMoves]
  | finish hphase => rw [hphase]; cases s.mode <;> simp [engineMoves]
  | flush hphase => rw [hphase]; cases s.mode <;> simp [engineMoves]

/-- The body is left for the end of the call only with every pixel done. -/
theorem EngineStep.all_done {s t : State} (h : EngineStep s t) (hbody : s.phase = .body)
    (hend : t.phase = .trailer ∨ t.phase = .flush) : s.pixTotal ≤ s.pixDone := by
  have hstays {u : State} (hu : u.phase = s.phase) (hend : u.phase = .trailer ∨ u.phase = .flush) : False := by
    rw [hu, hbody] at hend
    exact hend.elim nofun nofun
  cases h with
  | rest => exact (hstays rfl hend).elim
  | wait _ hops => exact (hstays hops.phase hend).elim
  | raise => exact hend.elim nofun nofun
  | enterBody => exact hend.elim nofun nofun
  | decPixel _ hops => exact (hstays ((finishPixel_phase ..).trans hops.phase) hend).elim
  | encPixel _ hops => exact (hstays hops.phase hend).elim
  | leaveEncBody _ _ hdone | leaveDecBody _ _ hdone => exact hdone
  | finish hphase | flush hphase => exact nomatch hphase.symm.trans hbody

theorem command_phase (m : Mode) (s : State) :
    (command m s).phase = s.phase ∨ s.phase.busy = false ∧ (command m s).phase = .header := by
  unfold command
  split
  · exact .inl rfl
  · next hbusy => exact .inr ⟨Bool.eq_false_iff.2 hbusy, rfl⟩

theorem hostWrite_phase (w : MetaWrite) (s : State) : (hostWrite w s).phase = s.phase := by
  unfold hostWrite
  split
  · rfl
  · cases w <;> rfl

/-- Settles O53: engine steps outcome by outcome, host events one by one. -/
theorem phaseMovesByTable : Obligations.PhaseMovesByTable := by
  refine ⟨fun s t hstep => ?_, fun e s => ?_⟩
  · have h := engineStep_cases hstep
    exact ⟨h.phase_mem, h.mode, h.all_done⟩
  · cases e with
    | startEnc => exact (command_phase .enc s).imp_right fun ⟨hrest, hphase⟩ => .inl ⟨hrest, hphase, .inl rfl⟩
    | startDec => exact (command_phase .dec s).imp_right fun ⟨hrest, hphase⟩ => .inl ⟨hrest, hphase, .inr rfl⟩
    | write w => exact .inl (hostWrite_phase w s)
    | reset => exact .inr (.inr ⟨rfl, rfl⟩)
    | srcAnswers as => exact .inl rfl
    | snkAnswers as => exact .inl rfl

/-! ## Port operations -/

/-- What a step that ends in `t` has asked the ports, by how it ends: bytes read and written; these and what raised an error;
or the flush. -/
inductive StepEvents (s t : State) : List PortEvent → Prop where
  | bytes {events : List PortEvent} (hevents : ∀ e ∈ events, IsByte e) (hdone : t.phase = .done → s.phase = .done)
    (herror : t.phase = .error → s.phase = .error) : StepEvents s t events
  | raised {e : CoreError} {before last : List PortEvent} (hbefore : ∀ e ∈ before, IsByte e) (hcause : Cause e last)
    (hphase : t.phase = .error) (hkind : t.errKind = e.kind) (hbyte : t.errByte = e.byte) : StepEvents s t (before ++ last)
  | flushed (hphase : s.phase = .flush) (hdone : t.phase = .done) : StepEvents s t [.flushed]

/-- The ports' side of a step: its operations are all answered, and what they are. -/
def PortsOf (s t : State) (events : List PortEvent) : Prop :=
  (t.hist = s.hist ++ events ∧ s.src = srcAnswered events ++ t.src ∧ s.snk = snkAnswered events ++ t.snk) ∧
    StepEvents s t events

theorem PortsOf.of_progress {n m : Nat} {s t u : State} {events : List PortEvent} (h : Progress n m s events t)
    (hports : u.hist = t.hist ∧ u.src = t.src ∧ u.snk = t.snk) (hdone : u.phase = .done → s.phase = .done)
    (herror : u.phase = .error → s.phase = .error) : PortsOf s u events := by
  obtain ⟨hhist, hsrc, hsnk⟩ := hports
  exact ⟨⟨hhist.trans h.hist, hsrc ▸ h.src, hsnk ▸ h.snk⟩, .bytes h.isByte hdone herror⟩

theorem EngineStep.ports {s t : State} (h : EngineStep s t) : ∃ events, PortsOf s t events := by
  cases h with
  | rest => exact ⟨[], .of_progress (.refl (n := 0) (m := 0) s) ⟨rfl, rfl, rfl⟩ id id⟩
  | wait _ hops => exact ⟨_, .of_progress hops ⟨rfl, rfl, rfl⟩ (hops.phase ▸ id) (hops.phase ▸ id)⟩
  | raise _ hraised =>
    obtain ⟨hops, before, last, rfl, hbefore, hcause⟩ := hraised
    exact ⟨_, ⟨hops.hist, hops.src, hops.snk⟩, .raised hbefore hcause rfl rfl rfl⟩
  | enterBody _ hops => exact ⟨_, .of_progress hops ⟨rfl, rfl, rfl⟩ nofun nofun⟩
  | @decPixel p run events t _ hops =>
    have hphase : (finishPixel p run t).phase = s.phase := (finishPixel_phase ..).trans hops.phase
    exact ⟨_, .of_progress hops ⟨finishPixel_hist .., finishPixel_src .., finishPixel_snk ..⟩ (hphase ▸ id) (hphase ▸ id)⟩
  | encPixel _ hops => exact ⟨_, .of_progress hops ⟨rfl, rfl, rfl⟩ (hops.phase ▸ id) (hops.phase ▸ id)⟩
  | leaveEncBody => exact ⟨[], .of_progress (.refl (n := 0) (m := 0) s) ⟨rfl, rfl, rfl⟩ nofun nofun⟩
  | leaveDecBody => exact ⟨[], .of_progress (.refl (n := 0) (m := 0) s) ⟨rfl, rfl, rfl⟩ nofun nofun⟩
  | finish _ hops => exact ⟨_, .of_progress hops ⟨rfl, rfl, rfl⟩ nofun nofun⟩
  | flush hphase hsnk => exact ⟨[.flushed], ⟨rfl, rfl, hsnk⟩, .flushed hphase rfl⟩

/-- Settles O54: every outcome of a step accounts for the answers it took. -/
theorem portOperationsAreAnswered : Obligations.PortOperationsAreAnswered := by
  intro s t hstep
  obtain ⟨events, hports, -⟩ := (engineStep_cases hstep).ports
  exact ⟨events, hports⟩

/-- The history fixes the operations of a step. -/
theorem stepEvents_of_hist {s t : State} {events : List PortEvent} (hstep : engineStep s = .next t)
    (hhist : t.hist = s.hist ++ events) : StepEvents s t events := by
  obtain ⟨events', ⟨hhist', -, -⟩, hevents⟩ := (engineStep_cases hstep).ports
  obtain rfl : events' = events := List.append_cancel_left (hhist'.symm.trans hhist)
  exact hevents

theorem not_isByte_flushed : ¬IsByte .flushed := nofun

theorem flushed_not_mem_cause {e : CoreError} {last : List PortEvent} (h : Cause e last) : .flushed ∉ last := by
  cases h <;> simp

/-- Settles O55: a step with bytes only, or with an error, has no flush and does not lead into `DONE`; the flush does. -/
theorem flushIsTheLastOperation : Obligations.FlushIsTheLastOperation := by
  intro s t events hstep hhist
  cases stepEvents_of_hist hstep hhist with
  | bytes hevents hdone =>
    refine ⟨iff_of_false (fun hmem => not_isByte_flushed (hevents _ hmem)) ?_, fun ht => .inl (hdone ht)⟩
    rintro ⟨hflush, ht⟩
    exact nomatch hflush.symm.trans (hdone ht)
  | raised hbefore hcause hphase =>
    have hnot : t.phase ≠ .done := by rw [hphase]; nofun
    refine ⟨iff_of_false (fun hmem => ?_) fun ⟨_, ht⟩ => hnot ht, fun ht => absurd ht hnot⟩
    exact (List.mem_append.1 hmem).elim (fun h => not_isByte_flushed (hbefore _ h)) (flushed_not_mem_cause hcause)
  | flushed hphase hdone => exact ⟨iff_of_true (List.mem_singleton_self _) ⟨hphase, hdone⟩, fun _ => .inr ⟨hphase, rfl⟩⟩

/-! ## Errors of the ports -/

/-- An operation that a port answered with `IoErr`. -/
abbrev IsIoErr (e : PortEvent) : Prop := e = .readIoErr ∨ e = .flushIoErr ∨ ∃ b, e = .writeIoErr b

theorem IsByte.not_isIoErr {e : PortEvent} (h : IsByte e) : ¬IsIoErr e := by
  cases h <;> simp

/-- `IoError` is raised by an `IoErr` and by nothing else. -/
theorem Cause.ioErr_iff {e : CoreError} {last : List PortEvent} (h : Cause e last) :
    (e = .ioError ∧ ∃ x, last = [x] ∧ IsIoErr x) ∨ (e.kind ≠ .ioError ∧ ∀ x ∈ last, ¬IsIoErr x) := by
  cases h with
  | eof he =>
    refine .inr ⟨?_, by simp⟩
    rcases he with rfl | rfl | rfl <;> nofun
  | readIoErr => exact .inl ⟨rfl, _, rfl, .inl rfl⟩
  | writeIoErr b => exact .inl ⟨rfl, _, rfl, .inr (.inr ⟨b, rfl⟩)⟩
  | flushIoErr => exact .inl ⟨rfl, _, rfl, .inr (.inl rfl)⟩
  | illegalHeader => exact .inr ⟨nofun, nofun⟩
  | illegalColorspace b => exact .inr ⟨nofun, nofun⟩

/-- Either the last operation of a step was answered `IoErr` and the step ends with `IoError`, or neither holds. -/
theorem StepEvents.ioErr_cases {s t : State} {events : List PortEvent} (h : StepEvents s t events) (hs : s.phase ≠ .error) :
    ((t.phase = .error ∧ t.errKind = .ioError ∧ t.errByte = 0) ∧ ∃ before x, events = before ++ [x] ∧ IsIoErr x) ∨
    (¬(t.phase = .error ∧ t.errKind = .ioError) ∧ ∀ x ∈ events, ¬IsIoErr x) := by
  cases h with
  | bytes hevents hdone herror => exact .inr ⟨fun ⟨ht, _⟩ => hs (herror ht), fun x hx => (hevents x hx).not_isIoErr⟩
  | @raised e before last hbefore hcause hphase hkind hbyte =>
    rcases hcause.ioErr_iff with ⟨rfl, x, rfl, hx⟩ | ⟨hne, hlast⟩
    · exact .inl ⟨⟨hphase, hkind, hbyte⟩, before, x, rfl, hx⟩
    · refine .inr ⟨fun ⟨_, hio⟩ => hne (hkind.symm.trans hio), fun x hx => ?_⟩
      exact (List.mem_append.1 hx).elim (fun h => (hbefore x h).not_isIoErr) (hlast x)
  | flushed hphase hdone =>
    exact .inr ⟨fun ⟨ht, _⟩ => (nomatch hdone.symm.trans ht), by simp⟩

/-- Settles O56: the two cases of a step's operations. -/
theorem ioErrorExactlyFromPorts : Obligations.IoErrorExactlyFromPorts := by
  intro s t events hstep hhist hs _
  rcases (stepEvents_of_hist hstep hhist).ioErr_cases hs with ⟨⟨hphase, hkind, hbyte⟩, hlast⟩ | ⟨hnot, hevents⟩
  · exact ⟨iff_of_true ⟨hphase, hkind⟩ hlast, fun _ _ _ => ⟨hphase, hkind, hbyte⟩⟩
  · refine ⟨iff_of_false hnot ?_, fun x hx hio => absurd hio (hevents x hx)⟩
    rintro ⟨before, x, rfl, hio⟩
    exact hevents x (by simp) hio

end Sys2Proof
end

section
/-! From the body on, a call whose ports answer comes to its end (rule R338): each pixel step takes at most five answers of the
source and six of the sink, the encode finish nine, the flush one. -/

namespace Sys2Proof

open Machine

/-! ## The end of the body -/

/-- Settles O40: with no pixel left a body step is the end of the body, and the trailer is not read. -/
theorem bodyEndsWhenAllPixelsDone : Obligations.BodyEndsWhenAllPixelsDone := by
  intro s hphase hdone
  have hnone : ¬s.pixDone < s.pixTotal := BitVec.not_lt.2 hdone
  constructor
  · intro hmode
    simp [engineStep, bodyStep, hphase, hmode, hnone, leaveEncBody]
  · intro hmode
    simp [engineStep, bodyStep, hphase, hmode, hnone, leaveDecBody, Config.decReadsTrailer, endStep]

/-! ## Calls that end -/

/-- Steps lead from `s` to `DONE` or `ERROR`. -/
def Ends (s : State) : Prop := ∃ n t, Leads n s t ∧ (t.phase = .done ∨ t.phase = .error)

theorem ends_of_phase {s : State} (h : s.phase = .done ∨ s.phase = .error) : Ends s := ⟨0, s, rfl, h⟩

theorem Ends.of_step {s t : State} (hstep : step s = .next t) (h : Ends t) : Ends s := by
  obtain ⟨n, u, hleads, hend⟩ := h
  exact ⟨n + 1, u, leads_succ hstep hleads, hend⟩

/-- With no host event to come, a legal state ends if what its engine step leads to does. -/
theorem Ends.of_engineStep {s : State} (h : Inv s) (hagenda : s.agenda = [])
    (hnext : ∀ t, EngineStep s t → Inv t → Ends t) : Ends s := by
  obtain ⟨t, hstep⟩ := h.engineStep_next
  have hcases := engineStep_cases hstep
  exact .of_step ((step_of_agenda_nil hagenda).trans hstep) (hnext t hcases (h.engineStep hcases))

theorem ends_of_flush {s : State} (h : Inv s) (hphase : s.phase = .flush) (hagenda : s.agenda = []) (hsnk : 1 ≤ s.snk.length) :
    Ends s := by
  refine .of_engineStep h hagenda fun t ht _ => ?_
  cases ht with
  | rest hrest => rw [hphase] at hrest; cases hrest
  | wait _ _ hlack =>
    rw [hphase] at hlack
    exact (hlack.elim (Nat.not_lt_zero _) (Nat.not_lt.2 hsnk)).elim
  | raise => exact ends_of_phase (.inr rfl)
  | flush => exact ends_of_phase (.inl rfl)
  | enterBody h | leaveEncBody h | leaveDecBody h | finish h => exact nomatch hphase.symm.trans h
  | decPixel hat | encPixel hat => exact nomatch hphase.symm.trans hat.1

theorem ends_of_trailer {s : State} (h : Inv s) (hphase : s.phase = .trailer) (hagenda : s.agenda = [])
    (hsnk : 10 ≤ s.snk.length) : Ends s := by
  refine .of_engineStep h hagenda fun t ht hInv => ?_
  cases ht with
  | rest hrest => rw [hphase] at hrest; cases hrest
  | wait _ _ hlack =>
    rw [hphase] at hlack
    exact (hlack.elim (Nat.not_lt_zero _) (Nat.not_lt.2 (by change 9 ≤ _; omega))).elim
  | raise => exact ends_of_phase (.inr rfl)
  | @finish events t _ hops =>
    have hwrites : _ ≤ 9 := hphase ▸ hops.writes_le
    have hlen := congrArg List.length hops.snk
    rw [List.length_append] at hlen
    have hsnk' : 1 ≤ t.snk.length := by omega
    exact ends_of_flush hInv rfl (hops.agenda.trans hagenda) hsnk'
  | enterBody h | leaveEncBody h | leaveDecBody h | flush h => exact nomatch hphase.symm.trans h
  | decPixel hat | encPixel hat => exact nomatch hphase.symm.trans hat.1

/-- The answers that a pixel step leaves are enough for one pixel less. -/
theorem enough_after_pixel {s t : State} {events : List PortEvent} {left : Nat} (hphase : s.phase = .body)
    (hops : StepProgress s events t) (hsrc : 5 * (left + 1) ≤ s.src.length) (hsnk : 6 * (left + 1) + 10 ≤ s.snk.length) :
    5 * left ≤ t.src.length ∧ 6 * left + 10 ≤ t.snk.length := by
  have hreads : _ ≤ 5 := hphase ▸ hops.reads_le
  have hwrites : _ ≤ 6 := hphase ▸ hops.writes_le
  have hsrcLen := congrArg List.length hops.src
  have hsnkLen := congrArg List.length hops.snk
  rw [List.length_append] at hsrcLen hsnkLen
  omega

theorem ends_of_body {left : Nat} {s : State} (h : Inv s) (hphase : s.phase = .body) (hagenda : s.agenda = [])
    (hleft : s.pixDone.toNat + left = s.pixTotal.toNat) (hsrc : 5 * left ≤ s.src.length)
    (hsnk : 6 * left + 10 ≤ s.snk.length) : Ends s := by
  induction left generalizing s with
  | zero =>
    have hdone : s.pixTotal ≤ s.pixDone := BitVec.le_def.2 (by omega)
    obtain ⟨hleaveEnc, hleaveDec⟩ := bodyEndsWhenAllPixelsDone s hphase hdone
    have hstep := step_of_agenda_nil hagenda
    cases hmode : s.mode with
    | enc =>
      have hInv := h.engineStep (.leaveEncBody hphase hmode hdone)
      exact .of_step (hstep.trans (hleaveEnc hmode)) (ends_of_trailer hInv rfl hagenda (by simpa using hsnk))
    | dec =>
      have hInv := h.engineStep (.leaveDecBody hphase hmode hdone)
      exact .of_step (hstep.trans (hleaveDec hmode)) (ends_of_flush hInv rfl hagenda (le_trans (by omega) hsnk))
  | succ left ih =>
    refine .of_engineStep h hagenda fun t ht hInv => ?_
    cases ht with
    | rest hrest => rw [hphase] at hrest; cases hrest
    | wait _ _ hlack =>
      rw [hphase] at hlack
      exact (hlack.elim (Nat.not_lt.2 (by change 5 ≤ _; omega)) (Nat.not_lt.2 (by change 6 ≤ _; omega))).elim
    | raise => exact ends_of_phase (.inr rfl)
    | leaveEncBody _ _ hdone | leaveDecBody _ _ hdone =>
      rw [BitVec.le_def] at hdone
      omega
    | @decPixel p run events t hat hops =>
      obtain ⟨hsrc', hsnk'⟩ := enough_after_pixel hphase hops hsrc hsnk
      refine ih hInv ?_ ?_ ?_ (by simpa using hsrc') (by simpa using hsnk')
      · rw [finishPixel_phase, hops.phase, hphase]
      · rw [finishPixel_agenda, hops.agenda, hagenda]
      · rw [finishPixel_pixDone, finishPixel_pixTotal, hops.pixDone, hops.pixTotal]
        exact toNat_pixDone_add (n := 1) hleft
    | @encPixel p plan events t hat hops =>
      obtain ⟨hsrc', hsnk'⟩ := enough_after_pixel hphase hops hsrc hsnk
      refine ih hInv (hops.phase.trans hphase) (hops.agenda.trans hagenda) ?_ hsrc' hsnk'
      rw [finishEncPixel_pixDone, finishEncPixel_pixTotal, hops.pixDone, hops.pixTotal]
      exact toNat_pixDone_add (n := 1) hleft
    | enterBody h | finish h | flush h => exact nomatch hphase.symm.trans h

/-- Settles O58: by the phase, and in the body by the pixels left. -/
theorem answeredBodyReachesEnd : Obligations.AnsweredBodyReachesEnd := by
  intro s h hafter hagenda hsrc hsnk
  cases hphase : s.phase with
  | idle | header | done | error => rw [hphase] at hafter; cases hafter
  | body =>
    have hle := BitVec.le_def.1 (h.count_le (by rw [hphase]; nofun))
    exact ends_of_body h hphase hagenda (Nat.add_sub_cancel' hle) hsrc hsnk
  | trailer => exact ends_of_trailer h hphase hagenda (le_trans (Nat.le_add_left ..) hsnk)
  | flush => exact ends_of_flush h hphase hagenda (le_trans (by omega) hsnk)

end Sys2Proof
end

section
/-! Pixel arithmetic: the laws of the channel operations and of the hash (rules R112, R114), and how differences invert
(rule R124). -/

namespace Sys2Proof

open Machine

/-- Settles O9: bit vectors add and subtract modulo 256. -/
theorem channelArithmeticWraps : Obligations.ChannelArithmeticWraps := by
  intro x y
  refine ⟨BitVec.toNat_add x y, ?_, BitVec.sub_add_cancel x y, BitVec.add_sub_cancel x y, ?_⟩
  · have := x.isLt
    have := y.isLt
    rw [sub8, BitVec.toNat_sub]
    omega
  · rw [sub8, add8, sub8]
    bv_omega

/-- Settles O10: a multiple of 64 in a channel adds a multiple of 64 to the sum. -/
theorem hashIsWeightedSum : Obligations.HashIsWeightedSum := by
  intro p
  have hsum : (pixelHash p).toNat = (p.r.toNat * 3 + p.g.toNat * 5 + p.b.toNat * 7 + p.a.toNat * 11) % 64 := by
    rw [pixelHash, BitVec.toNat_ofNat, Nat.mod_mod]
  exact ⟨hsum, by omega⟩

/-! ## Differences -/

theorem fromDiff_of_diff {c r : Pixel} {d : DiffKind} (h : diff c r = some d) : fromDiff d r = c := by
  cases d with
  | color dr dg db => exact resolved_color_of_diff (s := { State.reset with prev := r }) h
  | luma dg drg dbg => exact resolved_luma_of_diff (s := { State.reset with prev := r }) h

/-- A field less its bias is a signed delta, where neither passes half of a byte's range. -/
theorem toInt_field_sub_bias {n : Nat} (f : BitVec n) {k : Byte} (hf : f.toNat < 2 * k.toNat) (hk : k.toNat ≤ 128) :
    (f.setWidth 8 - k).toInt + k.toNat = f.toNat := by
  have hwide : (f.setWidth 8).toNat = f.toNat := by
    rw [BitVec.toNat_setWidth]
    omega
  rw [BitVec.toInt_eq_toNat_cond, BitVec.toNat_sub, hwide]
  split <;> omega

theorem diff_fromColor (dr dg db : BitVec 2) (r : Pixel) : diff (fromColor dr dg db r) r = some (.color dr dg db) := by
  have hdelta (x : Byte) (f : BitVec 2) : (add8 x (sub8 (f.setWidth 8) 2) - x).toInt + 2 = f.toNat := by
    rw [add8, sub8, add_sub_cancel_left]
    exact toInt_field_sub_bias (k := 2) f f.isLt (by decide)
  exact (colorDifferenceExactly ..).2 ⟨rfl, hdelta .., hdelta .., hdelta ..⟩

theorem lumaOf_fromLuma (dg : BitVec 6) (drg dbg : BitVec 4) (r : Pixel) :
    lumaOf (sub8 (fromLuma dg drg dbg r).r r.r) (sub8 (fromLuma dg drg dbg r).g r.g) (sub8 (fromLuma dg drg dbg r).b r.b) =
      some (.luma dg drg dbg) := by
  have hother (f : BitVec 4) : (f.setWidth 8 - 8#8).toInt + 8 = f.toNat :=
    toInt_field_sub_bias (k := 8) f f.isLt (by decide)
  have hgreen : (dg.setWidth 8 - 32#8).toInt + 32 = dg.toNat := toInt_field_sub_bias (k := 32) dg dg.isLt (by decide)
  refine (lumaOf_eq_luma_iff ..).2 ⟨?_, ?_, ?_⟩ <;> simp only [fromLuma, add8, sub8, add_sub_cancel_left]
  · exact hgreen
  · exact hother drg
  · exact hother dbg

/-- The pixel of a `Luma` has a small-color difference too, or that `Luma` as its difference. -/
theorem diff_fromLuma (dg : BitVec 6) (drg dbg : BitVec 4) (r : Pixel) :
    (∃ dr dg' db, diff (fromLuma dg drg dbg r) r = some (.color dr dg' db)) ∨
      diff (fromLuma dg drg dbg r) r = some (.luma dg drg dbg) := by
  cases hcolor : colorOf (sub8 (fromLuma dg drg dbg r).r r.r) (sub8 (fromLuma dg drg dbg r).g r.g)
      (sub8 (fromLuma dg drg dbg r).b r.b) with
  | some d =>
    obtain ⟨-, rfl⟩ := (colorOf_eq_some ..).1 hcolor
    exact .inl ⟨_, _, _, (diff_eq_some ..).2 ⟨rfl, .inl hcolor⟩⟩
  | none => exact .inr ((diff_eq_some ..).2 ⟨rfl, .inr ⟨hcolor, lumaOf_fromLuma dg drg dbg r⟩⟩)

/-- Settles O14: what `diff` gives is undone, a `Color` is given back, and a `Luma` is, unless the small-color check answers
first. -/
theorem differenceInverts : Obligations.DifferenceInverts := by
  refine ⟨fun _ _ _ => fromDiff_of_diff, fun d r => ?_⟩
  cases d with
  | color dr dg db => exact ⟨rfl, _, diff_fromColor dr dg db r, rfl, .inl rfl, fun _ => rfl⟩
  | luma dg drg dbg =>
    refine ⟨rfl, ?_⟩
    rcases diff_fromLuma dg drg dbg r with ⟨dr, dg', db, hd⟩ | hd
    · exact ⟨_, hd, fromDiff_of_diff hd, .inr ⟨dr, dg', db, rfl⟩, fun ⟨_, _, _, h⟩ => nomatch h⟩
    · exact ⟨_, hd, rfl, .inl rfl, fun _ => rfl⟩

/-- Settles O35: the selected chunk is no `RUN`, so it is well formed, and it resolves in the state it was selected in. -/
theorem selectedChunkResolvesBack : Obligations.SelectedChunkResolvesBack :=
  fun s p _ => ⟨resolved_selectOp s p, selectOp_cache s.cache p s.prev, wellFormed_of_ne_run (selectOp_ne_run s.cache p s.prev),
    selectOp_ne_run s.cache p s.prev⟩

end Sys2Proof
end

section
/-! What the chunks RGB, RGBA, LUMA and RUN complete with (rules R195 to R198), and how every chunk waits at the sink (rules R57,
R313) or reports its error (rules R297, R300). -/

namespace Sys2Proof

open Machine

/-! ## Completed chunks -/

/-- Settles O17: RGB resolves to the literal colour with `prev`'s alpha, and completes as every pixel step does. -/
theorem rgbTakesLiteralColour : Obligations.RgbTakesLiteralColour := by
  intro r g b s rest hsnk
  rw [exec_eq (.rgb r g b) s rfl]
  exact completePixel_go ⟨r, g, b, s.prev.a⟩ s.run rest s hsnk

/-- Settles O18: RGBA resolves to the literal pixel, and completes as every pixel step does. -/
theorem rgbaTakesLiteralPixel : Obligations.RgbaTakesLiteralPixel := by
  intro r g b a s rest hsnk
  rw [exec_eq (.rgba r g b a) s rfl]
  exact completePixel_go ⟨r, g, b, a⟩ s.run rest s hsnk

theorem resolved_luma_eq {s : State} {p : Pixel} {dg : BitVec 6} {drg dbg : BitVec 4}
    (hg : p.g.toNat = (s.prev.g.toNat + dg.toNat + 224) % 256)
    (hr : p.r.toNat = (s.prev.r.toNat + dg.toNat + drg.toNat + 216) % 256)
    (hb : p.b.toNat = (s.prev.b.toNat + dg.toNat + dbg.toNat + 216) % 256) (ha : p.a = s.prev.a) :
    resolved s (.luma dg drg dbg) = p := by
  have hgreen : s.prev.g + (dg.setWidth 8 - 32) = p.g := by bv_omega
  have hother (x y : Byte) (f : BitVec 4) (h : y.toNat = (x.toNat + dg.toNat + f.toNat + 216) % 256) :
      x + (dg.setWidth 8 - 32 + (f.setWidth 8 - 8)) = y := by bv_omega
  rw [resolved, hgreen, hother _ _ _ hr, hother _ _ _ hb, ← ha]

/-- Settles O21: LUMA resolves to the pixel with the unbiased deltas added, and completes as every pixel step does. -/
theorem lumaAddsDeltas : Obligations.LumaAddsDeltas := by
  intro dg drg dbg p s rest hg hr hb ha hsnk
  rw [exec_eq (.luma dg drg dbg) s rfl, resolved_luma_eq hg hr hb ha]
  exact completePixel_go p s.run rest s hsnk

/-- Settles O22: RUN resolves to `prev`, which is not committed; a count that is not well formed is refused. -/
theorem runRepeatsPrevious : Obligations.RunRepeatsPrevious := by
  refine ⟨fun count s rest hpos hmax hsnk => ?_, fun _ => ⟨rfl, rfl⟩⟩
  have hwf : (Instr.run count).wellFormed = true := (runCountOk_iff count).2 ⟨hpos, hmax⟩
  have hlower : (count - 1).toNat = count.toNat - 1 := by bv_omega
  refine ⟨_, ?_, hlower, rfl⟩
  rw [exec_eq _ s hwf, ← afterPixel_prev]
  exact completePixel_go s.prev (count - 1) rest s hsnk

/-! ## Waiting and failing at the sink -/

/-- A step of which the sink leaves an output byte unanswered waits; the bytes accepted so far stay. -/
theorem settle_drain_wait {out : List Byte} {k : Nat} {s : State} (next : State → Result)
    (hk : k < (out.drop s.wrCnt).length) (hsnk : s.snk = oks k) :
    (drain out s).settle next = .next { s with
      snk := [], wrCnt := s.wrCnt + k, hist := s.hist ++ ((out.drop s.wrCnt).take k).map .wrote } := by
  have htake : ((out.drop s.wrCnt).take k).length = k := by rw [List.length_take]; omega
  rw [drain_wait out k s hk hsnk, Flow.settle_wait, afterWrites, htake]

/-- A step of which the sink answers an output byte with `IoErr` reports it; the bytes accepted before it stay. -/
theorem settle_drain_ioErr {out : List Byte} {k : Nat} {b : Byte} {rest : List SnkAnswer} {s : State} (next : State → Result)
    (hb : (out.drop s.wrCnt)[k]? = some b) (hsnk : s.snk = oks k ++ .ioErr :: rest) :
    ∃ t, (drain out s).settle next = .next t ∧
      ErrorReported .ioError 0 s.src rest (((out.drop s.wrCnt).take k).map .wrote ++ [.writeIoErr b]) s t := by
  obtain ⟨hk, rfl⟩ := List.getElem?_eq_some_iff.1 hb
  have htake : ((out.drop s.wrCnt).take k).length = k := by rw [List.length_take]; omega
  have hsnk' : s.snk = oks ((out.drop s.wrCnt).take k).length ++ .ioErr :: rest := by rw [htake, hsnk]
  refine ⟨_, by rw [drain_ioErr out k rest s hk hsnk, Flow.settle_raise], ?_⟩
  exact ((Answered.writes hsnk').trans (.snkOther (e := .writeIoErr (out.drop s.wrCnt)[k]) rfl rfl)).errorReported .ioError

/-- Settles O23: every chunk is a pixel step of the pixel it resolves to, and waits with its output. -/
theorem chunkWaitsForSink : Obligations.ChunkWaitsForSink := by
  intro i s k hwf hk hsnk
  rw [exec_eq i s hwf]
  exact settle_drain_wait _ hk hsnk

/-- Settles O24: every chunk is a pixel step of the pixel it resolves to, and fails with its output. -/
theorem chunkReportsSinkError : Obligations.ChunkReportsSinkError := by
  intro i s k b rest hwf hb hsnk
  rw [exec_eq i s hwf]
  exact settle_drain_ioErr _ hb hsnk

end Sys2Proof
end

section
/-! Steps that do not get their bytes: whose turn it is (log entry 2), the chunk fetch and the input pixel that the source
completes, leaves waiting or cuts short (rules R161, R192, R236, R295, R297). -/

namespace Sys2Proof

open Machine

/-! ## Turns -/

theorem engineStep_of_rest {s : State} (h : s.phase.busy = false) : engineStep s = .next s := by
  unfold engineStep
  cases hphase : s.phase with
  | idle | done | error => rfl
  | header | body | trailer | flush => rw [hphase] at h; cases h

theorem step_of_not_hostDue {s : State} (h : hostDue s = false) : step s = engineStep (tick s) := by
  rcases hagenda : s.agenda with _ | ⟨⟨_ | n, e⟩, rest⟩
  · simp only [step, turn, tick, hagenda]
  · have hdue : hostDue s = true := by simp only [hostDue, hagenda]
    exact nomatch hdue.symm.trans h
  · simp only [step, turn, tick, hagenda]

/-- Settles O25: the three shapes of the agenda, and the resting phases. -/
theorem stepTakesTurns : Obligations.StepTakesTurns := by
  refine ⟨fun s e rest hagenda => ?_, fun _ => step_of_not_hostDue, fun _ => engineStep_of_rest⟩
  simp [step, turn, hagenda]

theorem tick_eq (s : State) : ∃ agenda, tick s = { s with agenda := agenda } := by
  unfold tick
  split
  · exact ⟨s.agenda, rfl⟩
  · exact ⟨s.agenda, rfl⟩
  · exact ⟨_, rfl⟩

/-- Settles O26: the tick changes the agenda only, and the chunk step reads the bytes and executes. -/
theorem stepRunsDecodedChunk : Obligations.StepRunsDecodedChunk := by
  intro s i new rest hat hrun hdue hsrc hdecode
  obtain ⟨agenda, htick⟩ := tick_eq s
  have hat' : AtDecodeStep { s with agenda := agenda } := hat
  rw [step_of_not_hostDue hdue, htick, engineStep_of_run_eq_zero hat' hrun]
  exact chunkStep_of_decode hsrc hdecode

/-! ## Reads that the source does not answer with a byte -/

/-- The next answer of the source, if there is one, is no byte. -/
def NoByte (tail : List SrcAnswer) : Prop := ∀ b rest, tail ≠ .byte b :: rest

theorem noByte_nil : NoByte [] := nofun
theorem noByte_eof (rest : List SrcAnswer) : NoByte (.eof :: rest) := nofun
theorem noByte_ioErr (rest : List SrcAnswer) : NoByte (.ioErr :: rest) := nofun

/-- A fill that lacks bytes ends with the read that is not answered with one. -/
theorem fill_short {n : Nat} {new : List Byte} {tail : List SrcAnswer} {s : State} (e : CoreError)
    (hsrc : s.src = delivers new ++ tail) (hlen : s.rdBuf.length + new.length < n) (htail : NoByte tail) :
    fill n e s = srcRead e (afterReads new tail s) := by
  match tail with
  | [] => exact fill_wait n new e s hlen (by simpa using hsrc)
  | .byte b :: rest => exact absurd rfl (htail b rest)
  | .eof :: rest => exact fill_eof n new rest e s hlen hsrc
  | .ioErr :: rest => exact fill_ioErr n new rest e s hlen hsrc

/-- Nothing follows a read that is not answered with a byte. -/
theorem srcRead_andThen {e : CoreError} {s : State} (k : State → Flow) (h : NoByte s.src) :
    (srcRead e s).andThen k = srcRead e s := by
  unfold srcRead
  split
  · rfl
  · next b rest hsrc => exact absurd hsrc (h b rest)
  · rfl
  · rfl

/-- A step whose reads end in `Eof` reports the error that `Eof` raises there. -/
theorem settle_srcRead_eof {s t : State} {events : List PortEvent} {rest : List SrcAnswer} (e : CoreError)
    (next : State → Result) (ht : Answered s events t) (hsrc : t.src = .eof :: rest) :
    ∃ u, (srcRead e t).settle next = .next u ∧ ErrorReported e.kind e.byte rest t.snk (events ++ [.readEof]) s u := by
  refine ⟨_, by rw [srcRead, hsrc]; rfl, ?_⟩
  exact (ht.trans (.srcFailure (e := .readEof) (rest := rest) hsrc rfl)).errorReported e

theorem settle_srcRead_ioErr {s t : State} {events : List PortEvent} {rest : List SrcAnswer} (e : CoreError)
    (next : State → Result) (ht : Answered s events t) (hsrc : t.src = .ioErr :: rest) :
    ∃ u, (srcRead e t).settle next = .next u ∧ ErrorReported .ioError 0 rest t.snk (events ++ [.readIoErr]) s u := by
  refine ⟨_, by rw [srcRead, hsrc]; rfl, ?_⟩
  exact (ht.trans (.srcFailure (e := .readIoErr) (rest := rest) hsrc rfl)).errorReported .ioError

theorem settle_srcRead_wait {s : State} (e : CoreError) (next : State → Result) (hsrc : s.src = []) :
    (srcRead e s).settle next = .next s := by
  rw [srcRead, hsrc]
  rfl

/-! ## Chunk fetch -/

/-- Bytes that decode to no chunk are none at all, or fewer than the first of them asks for. -/
theorem lt_chunkLen_of_rejected {b0 : Byte} {more : List Byte} {why : DecodeError} (h : decode (b0 :: more) = .rejected why) :
    more.length + 1 < chunkLen b0 := by
  by_contra hge
  obtain ⟨-, hlong⟩ := decode_answersByLength b0 more
  obtain ⟨i, rest, hchunk, -⟩ := hlong (Nat.le_of_not_lt hge)
  exact nomatch h.symm.trans hchunk

theorem fetchChunk_short {s : State} {new : List Byte} {tail : List SrcAnswer} {why : DecodeError}
    (hsrc : s.src = delivers new ++ tail) (hdecode : decode (s.rdBuf ++ new) = .rejected why) (htail : NoByte tail) :
    fetchChunk s = srcRead .unexpectedEof (afterReads new tail s) := by
  rw [fetchChunk]
  cases hbuf : s.rdBuf with
  | nil =>
    rw [hbuf, List.nil_append] at hdecode
    cases new with
    | nil =>
      rw [fill_short .unexpectedEof hsrc (by simp [hbuf]) htail]
      exact srcRead_andThen _ htail
    | cons b0 more =>
      have hlen := lt_chunkLen_of_rejected hdecode
      rw [fill_go 1 [b0] (delivers more ++ tail) _ s (by simp [hbuf]) hsrc, Flow.andThen_go, afterReads_rdBuf, hbuf]
      rw [fill_short .unexpectedEof rfl (by simpa [hbuf, Nat.add_comm] using hlen) htail, afterReads_cons]
  | cons b0 bs =>
    rw [hbuf, List.cons_append] at hdecode
    have hlen := lt_chunkLen_of_rejected hdecode
    rw [fill_enough 1 _ s (by simp [hbuf]), Flow.andThen_go, hbuf]
    refine fill_short .unexpectedEof hsrc ?_ htail
    simp only [hbuf, List.length_cons, List.headD_cons]
    rw [List.length_append] at hlen
    omega

/-- A decode pixel step that lacks bytes of its chunk ends with the read that is not answered with one. -/
theorem engineStep_of_fetchShort {s : State} {new : List Byte} {tail : List SrcAnswer} {why : DecodeError}
    (hat : AtDecodeStep s) (hrun : s.run = 0) (hsrc : s.src = delivers new ++ tail)
    (hdecode : decode (s.rdBuf ++ new) = .rejected why) (htail : NoByte tail) :
    ∃ next, engineStep s = (srcRead .unexpectedEof (afterReads new tail s)).settle next :=
  ⟨_, by rw [engineStep_of_run_eq_zero hat hrun, chunkStep, fetchChunk_short hsrc hdecode htail]⟩

/-- Settles O27: the fetch ends with a read that is not answered. -/
theorem chunkFetchWaits : Obligations.ChunkFetchWaits := by
  intro s new why hat hrun hsrc hdecode
  obtain ⟨next, hstep⟩ := engineStep_of_fetchShort hat hrun (by simpa using hsrc) hdecode noByte_nil
  exact hstep.trans (settle_srcRead_wait _ _ rfl)

/-- Settles O28: the fetch ends with a read answered `Eof` or `IoErr`. -/
theorem chunkCutShortRaises : Obligations.ChunkCutShortRaises := by
  intro s new rest why hat hrun hdecode
  constructor
  · intro hsrc
    obtain ⟨next, hstep⟩ := engineStep_of_fetchShort hat hrun hsrc hdecode (noByte_eof rest)
    rw [hstep]
    exact settle_srcRead_eof .unexpectedEof next (.reads hsrc) rfl
  · intro hsrc
    obtain ⟨next, hstep⟩ := engineStep_of_fetchShort hat hrun hsrc hdecode (noByte_ioErr rest)
    rw [hstep]
    exact settle_srcRead_ioErr .unexpectedEof next (.reads hsrc) rfl

/-! ## The input pixel -/

/-- An encode pixel step that lacks bytes of its pixel ends with the read that is not answered with one. -/
theorem engineStep_of_pixelShort {s : State} {new : List Byte} {tail : List SrcAnswer} (hat : AtEncodeStep s)
    (hlen : (s.rdBuf ++ new).length < stride s.metaChannels) (hsrc : s.src = delivers new ++ tail) (htail : NoByte tail) :
    ∃ next, engineStep s = (srcRead .unexpectedEof (afterReads new tail s)).settle next :=
  ⟨_, by rw [engineStep_of_atEncodeStep hat, encPixelStep, fill_short _ hsrc (by simpa using hlen) htail]⟩

/-- Settles O34: the fetch of the pixel ends with a read answered `Eof` or `IoErr`, or not answered. -/
theorem inputPixelCutShort : Obligations.InputPixelCutShort := by
  intro s new rest hat hlen
  refine ⟨fun hsrc => ?_, fun hsrc => ?_, fun hsrc => ?_⟩
  · obtain ⟨next, hstep⟩ := engineStep_of_pixelShort hat hlen hsrc (noByte_eof rest)
    rw [hstep]
    exact settle_srcRead_eof .unexpectedEof next (.reads hsrc) rfl
  · obtain ⟨next, hstep⟩ := engineStep_of_pixelShort hat hlen hsrc (noByte_ioErr rest)
    rw [hstep]
    exact settle_srcRead_ioErr .unexpectedEof next (.reads hsrc) rfl
  · obtain ⟨next, hstep⟩ := engineStep_of_pixelShort hat hlen (tail := []) (by simpa using hsrc) noByte_nil
    exact hstep.trans (settle_srcRead_wait _ _ rfl)

end Sys2Proof
end

section
/-! What the encoder writes: the bytes of an open run and of the selected chunk as numbers (rules R164 to R169), the encode
finish (rules R172, R255), the flush (rules R55, R255, R262) and the encode header (rule R253). -/

namespace Sys2Proof

open Machine

/-! ## Bytes written out -/

/-- A run of 1..62 is the byte 0xC0 with the run less 1; written as 0xBF plus the run. -/
theorem openRunBytes_eq {run : BitVec 6} (h : run.toNat ≤ 62) :
    openRunBytes run = some (if run = 0 then [] else [0xBF#8 + run.setWidth 8]) := by
  by_cases h0 : run = 0
  · rw [openRunBytes, if_pos h0, if_pos h0]
  · have hpos : 1 ≤ run.toNat := by bv_omega
    have hbyte : 0b11#2 ++ (run - 1) = 0xBF#8 + run.setWidth 8 := by
      apply BitVec.eq_of_toNat_eq
      rw [toNat_runByte hpos]
      simp
      omega
    rw [openRunBytes, if_neg h0, if_neg h0, encode_run_of_countOk ((runCountOk_iff run).2 ⟨hpos, h⟩), hbyte]

theorem indexByte_eq (idx : BitVec 6) : 0b00#2 ++ idx = idx.setWidth 8 := by
  apply BitVec.eq_of_toNat_eq
  rw [toNat_indexByte]
  simp
  omega

theorem colorByte_eq (dr dg db : BitVec 2) :
    0b01#2 ++ dr ++ dg ++ db = 0x40#8 + 16 * dr.setWidth 8 + 4 * dg.setWidth 8 + db.setWidth 8 := by
  apply BitVec.eq_of_toNat_eq
  rw [toNat_colorByte]
  simp
  omega

theorem lumaBytes_eq (dg : BitVec 6) (drg dbg : BitVec 4) :
    0b10#2 ++ dg = 0x80#8 + dg.setWidth 8 ∧ drg ++ dbg = 16 * drg.setWidth 8 + dbg.setWidth 8 := by
  constructor <;> apply BitVec.eq_of_toNat_eq
  · rw [toNat_lumaLeadingByte]
    simp
    omega
  · rw [toNat_lumaSecondByte]
    simp
    omega

/-- The bytes of the chunk for a pixel that missed the cache (rules R166 to R169). -/
def missBytes (p prev : Pixel) : List Byte :=
  match diff p prev with
  | some (.color dr dg db) => [0x40#8 + 16 * dr.setWidth 8 + 4 * dg.setWidth 8 + db.setWidth 8]
  | some (.luma dg drg dbg) => [0x80#8 + dg.setWidth 8, 16 * drg.setWidth 8 + dbg.setWidth 8]
  | none => if p.a = prev.a then [0xFE#8, p.r, p.g, p.b] else [0xFF#8, p.r, p.g, p.b, p.a]

theorem encode_missOp (p prev : Pixel) : encode (missOp p prev) = some (missBytes p prev) := by
  unfold missOp missBytes
  rcases diff p prev with _ | ⟨dr, dg, db⟩ | ⟨dg, drg, dbg⟩ <;> dsimp only
  · split <;> rfl
  · rw [encode, colorByte_eq]
  · obtain ⟨hleading, hsecond⟩ := lumaBytes_eq dg drg dbg
    rw [encode, hleading, hsecond]

/-! ## The encode pixel step of a changed pixel -/

section

variable {s : State} {p : Pixel} {new : List Byte} {rest : List SrcAnswer} {snkRest : List SnkAnswer}

/-- A changed pixel: the open run, the selected chunk `op`, and the pixel inserted into the cache. -/
theorem engineStep_of_change {op out : List Byte} (hat : AtEncodeStep s) (hsrc : s.src = delivers new ++ rest)
    (hbytes : s.rdBuf ++ new = pixelBytes s.metaChannels p) (ha : s.metaChannels ≠ 4 → p.a = s.prev.a) (hne : p ≠ s.prev)
    (hop : encode (selectOp s.cache p s.prev).1 = some op) (hrun : s.run.toNat ≤ 61)
    (hout : out = (if s.run = 0 then [] else [0xBF#8 + s.run.setWidth 8]) ++ op)
    (hsnk : s.snk = oks (out.drop s.wrCnt).length ++ snkRest) :
    engineStep s = .next (afterEncPixel p (cacheInsert s.cache p) 0 (out.drop s.wrCnt) snkRest
      { s with src := rest, hist := s.hist ++ new.map .readByte }) := by
  subst hout
  have hplan := encPlan_of_ne hne (openRunBytes_eq (hrun.trans (by decide))) hop
  exact engineStep_of_encPlan hat hsrc hbytes ha hplan hsnk

end

/-- Settles O32: on a hit the chunk is the `INDEX` of the slot, and inserting the pixel changes nothing. -/
theorem cachedPixelEmitsIndex : Obligations.CachedPixelEmitsIndex := by
  intro s p new out rest snkRest hat hsrc hbytes ha hne hhit hrun hout hsnk
  have hop : encode (selectOp s.cache p s.prev).1 = some [(pixelHash p).setWidth 8] := by
    have hselect : (selectOp s.cache p s.prev).1 = .index (pixelHash p) := by simp [selectOp, cacheMatchOrReplace, hhit]
    rw [hselect, encode, indexByte_eq]
  have hstep := engineStep_of_change hat hsrc hbytes ha hne hop hrun hout hsnk
  rwa [cacheInsert_of_hit _ _ hhit] at hstep

/-- Settles O33: on a miss the chunk is the difference or the literal. -/
theorem uncachedPixelEmitsDifferenceOrLiteral : Obligations.UncachedPixelEmitsDifferenceOrLiteral := by
  intro s p new op out rest snkRest hat hsrc hbytes ha hne hmiss hrun hop hout hsnk
  have hop' : encode (selectOp s.cache p s.prev).1 = some op := by
    have hselect : (selectOp s.cache p s.prev).1 = missOp p s.prev := by simp [selectOp, cacheMatchOrReplace, hmiss]
    rw [hselect, encode_missOp]
    exact congrArg some hop.symm
  exact engineStep_of_change hat hsrc hbytes ha hne hop' hrun hout hsnk

/-! ## The encode finish and the flush -/

/-- A finish is the writes of the open run and the trailer, and what follows them. -/
theorem engineStep_of_trailer {s : State} {out : List Byte} (hphase : s.phase = .trailer) (hrun : s.run.toNat ≤ 61)
    (hout : out = (if s.run = 0 then [] else [0xBF#8 + s.run.setWidth 8]) ++ Config.trailer) :
    engineStep s = (drain out s).settle fun t => .next (endStep { t with run := 0, phase := .flush }) := by
  simp only [engineStep, hphase, encFinish, openRunBytes_eq (hrun.trans (by decide : 61 ≤ 62)), hout]

/-- Settles O38: the writes are all accepted. -/
theorem encodeFinishWritesTrailer : Obligations.EncodeFinishWritesTrailer := by
  intro s out snkRest hphase hrun hout hsnk
  rw [engineStep_of_trailer hphase hrun hout, drain_go out snkRest s hsnk]
  rfl

/-- Settles O39: the three answers a flush can have. -/
theorem flushEndsCall : Obligations.FlushEndsCall := by
  intro s rest hphase
  have hstep : engineStep s = flushStep s := by simp [engineStep, hphase]
  refine ⟨fun hsnk => ?_, fun hsnk => ?_, fun hsnk => ?_⟩ <;> rw [hstep, flushStep, snkFlush, hsnk]
  · rfl
  · exact ⟨_, rfl, (Answered.snkOther (e := .flushIoErr) hsnk rfl).errorReported .ioError⟩
  · rfl

/-! ## The encode header -/

/-- On legal arguments the encode header is the writes of its bytes, and what follows them. -/
theorem engineStep_of_legalHeader {s : State} (hphase : s.phase = .header) (hmode : s.mode = .enc)
    (hch : s.metaChannels = 3 ∨ s.metaChannels = 4) (hcs : s.metaColorspace = 0 ∨ s.metaColorspace = 1) :
    engineStep s = (drain (headerBytes s.metaWidth s.metaHeight s.metaChannels s.metaColorspace) s).settle
      fun t => .next (enterBody t) := by
  rw [engineStep_of_encHeader hphase hmode, encHeader, if_neg (by simp [(channelsOk_iff _).2 hch]),
    if_neg (by simp [(colorspaceOk_iff _).2 hcs])]

/-- Settles O36: the writes are all accepted, and the pixel count is the product of the two sides. -/
theorem encodeHeaderWritesFourteenBytes : Obligations.EncodeHeaderWritesFourteenBytes := by
  rintro s _ snkRest hphase hmode hch hcs rfl hsnk
  let out := headerBytes s.metaWidth s.metaHeight s.metaChannels s.metaColorspace
  refine ⟨enterBody (afterWrites (out.drop s.wrCnt) snkRest s), ?_, toNat_pixelCount s.metaWidth s.metaHeight, rfl⟩
  rw [engineStep_of_legalHeader hphase hmode hch hcs]
  exact congrArg (fun f => Flow.settle f fun t => .next (enterBody t)) (drain_go _ snkRest s hsnk)

end Sys2Proof
end

section
/-! The decode header however its bytes are spread over steps (rules R257 to R260): reads up to a byte position, the four fields
from there, and the header that is refused, cut short or left waiting. -/

namespace Sys2Proof

open Machine

/-! ## Reading up to a position -/

section

variable {new : List Byte} {tail : List SrcAnswer} {s : State}

/-- `s` after the reads that bring the step's bytes up to the `n`-th, where the source answers `new` and then `tail`. -/
def readTo (n : Nat) (new : List Byte) (tail : List SrcAnswer) (s : State) : State :=
  afterReads (new.take (n - s.rdBuf.length)) (delivers (new.drop (n - s.rdBuf.length)) ++ tail) s

theorem readTo_zero (hsrc : s.src = delivers new ++ tail) : readTo 0 new tail s = s := by
  rw [readTo, Nat.zero_sub, List.take_zero, List.drop_zero, ← hsrc, afterReads_nil]

theorem readTo_of_length_le {n : Nat} (h : s.rdBuf.length + new.length ≤ n) : readTo n new tail s = afterReads new tail s := by
  rw [readTo, List.take_of_length_le (by omega), List.drop_of_length_le (by omega)]
  rfl

theorem afterReads_append (xs ys : List Byte) (mid rest : List SrcAnswer) (s : State) :
    afterReads ys rest (afterReads xs mid s) = afterReads (xs ++ ys) rest s := by
  simp [afterReads]

/-- The first `n` bytes are those of all that have been read or are delivered. -/
theorem take_readTo (n : Nat) : (readTo n new tail s).rdBuf.take n = (s.rdBuf ++ new).take n := by
  rw [readTo, afterReads_rdBuf, List.take_append, List.take_append, List.take_take, Nat.min_self]

/-- A fill to a later position that the delivered bytes reach. -/
theorem fill_readTo {m n : Nat} (e : CoreError) (hmn : m ≤ n) (hn : n ≤ s.rdBuf.length + new.length) :
    fill n e (readTo m new tail s) = .go (readTo n new tail s) := by
  obtain ⟨k, hk⟩ : ∃ k, n - s.rdBuf.length = (m - s.rdBuf.length) + k := ⟨_, (Nat.add_sub_cancel' (by omega)).symm⟩
  have hbytes : new.take (n - s.rdBuf.length) =
      new.take (m - s.rdBuf.length) ++ (new.drop (m - s.rdBuf.length)).take k := by rw [hk, List.take_add]
  have hrest : (new.drop (m - s.rdBuf.length)).drop k = new.drop (n - s.rdBuf.length) := by rw [List.drop_drop, hk]
  have hsrc : (readTo m new tail s).src =
      delivers ((new.drop (m - s.rdBuf.length)).take k) ++ (delivers (new.drop (n - s.rdBuf.length)) ++ tail) := by
    rw [readTo, afterReads_src, ← hrest, ← List.append_assoc, ← delivers_append, List.take_append_drop]
  by_cases hlen : n ≤ s.rdBuf.length
  · obtain rfl : k = 0 := by omega
    rw [fill_enough n e _ (by rw [readTo, afterReads_rdBuf, List.length_append]; omega), readTo, readTo, hk, Nat.add_zero]
  · rw [fill_go n _ _ e _ ?_ hsrc, readTo, readTo, afterReads_append, ← hbytes]
    rw [readTo, afterReads_rdBuf, List.length_append, List.length_take, List.length_take, List.length_drop]
    omega

/-- A fill to a position that the delivered bytes do not reach. -/
theorem fill_readTo_short {m n : Nat} (e : CoreError) (hn : s.rdBuf.length + new.length < n) (htail : NoByte tail) :
    fill n e (readTo m new tail s) = srcRead e (afterReads new tail s) := by
  have hlen : (readTo m new tail s).rdBuf.length + (new.drop (m - s.rdBuf.length)).length < n := by
    rw [readTo, afterReads_rdBuf, List.length_append, List.length_take, List.length_drop]
    omega
  rw [fill_short e rfl hlen htail, readTo, afterReads_append, List.take_append_drop]

end

/-! ## The fields -/

theorem wordAt_eq_of_take_eq {xs ys : List Byte} {n k : Nat} (h : xs.take n = ys.take n) (hk : k + 4 ≤ n) :
    wordAt xs k = wordAt ys k := by
  have hget (i : Nat) (hi : i < n) : xs.getD i 0 = ys.getD i 0 := by
    rw [List.getD_eq_getElem?_getD, List.getD_eq_getElem?_getD, ← List.getElem?_take_of_lt hi, h, List.getElem?_take_of_lt hi]
  rw [wordAt, wordAt, hget k (by omega), hget (k + 1) (by omega), hget (k + 2) (by omega), hget (k + 3) (by omega)]

theorem getD_eq_of_take_eq {xs ys : List Byte} {n k : Nat} (h : xs.take n = ys.take n) (hk : k < n) :
    xs.getD k 0 = ys.getD k 0 := by
  rw [List.getD_eq_getElem?_getD, List.getD_eq_getElem?_getD, ← List.getElem?_take_of_lt hk, h, List.getElem?_take_of_lt hk]

/-! ## The header, stage by stage -/

section

variable {new m : List Byte} {tail : List SrcAnswer} {s : State}

theorem decMagic_readTo (hm : s.rdBuf ++ new = m) (hlen : 4 ≤ m.length) (hsrc : s.src = delivers new ++ tail) :
    decMagic s = if m.take 4 = Config.magic then .go (readTo 4 new tail s) else .raise .invalidHeader (readTo 4 new tail s) := by
  subst hm
  have hfill := fill_readTo (m := 0) (n := 4) .invalidHeader (Nat.zero_le _) (List.length_append ▸ hlen) (s := s) (tail := tail)
  rw [readTo_zero hsrc] at hfill
  rw [decMagic, hfill, Flow.andThen_go, take_readTo]

/-- The width is stored once its bytes are read. -/
theorem decDimensions_readTo_width (hm : s.rdBuf ++ new = m) (hlen : 8 ≤ m.length) :
    decDimensions (readTo 4 new tail s) =
      (fill 12 .invalidDimensions (readTo 8 new tail { s with metaWidth := wordAt m 4 })).andThen
        fun u => .go { u with metaHeight := wordAt u.rdBuf 8 } := by
  subst hm
  have hwidth : wordAt (readTo 8 new tail s).rdBuf 4 = wordAt (s.rdBuf ++ new) 4 :=
    wordAt_eq_of_take_eq (take_readTo 8) le_rfl
  rw [decDimensions, fill_readTo .invalidDimensions (by decide) (List.length_append ▸ hlen), Flow.andThen_go, hwidth]
  rfl

/-- Width and height have been stored as they stand in the header bytes `m` (rule R258). -/
def dimensionsStored (m : List Byte) (s : State) : State :=
  { s with metaWidth := wordAt m 4, metaHeight := wordAt m 8 }

theorem decDimensions_readTo (hm : s.rdBuf ++ new = m) (hlen : 12 ≤ m.length) :
    decDimensions (readTo 4 new tail s) =
      .go (readTo 12 new tail (dimensionsStored m s)) := by
  rw [decDimensions_readTo_width hm (by omega)]
  subst hm
  have hheight : wordAt (readTo 12 new tail { s with metaWidth := wordAt (s.rdBuf ++ new) 4 }).rdBuf 8 =
      wordAt (s.rdBuf ++ new) 8 := wordAt_eq_of_take_eq (take_readTo 12) le_rfl
  rw [fill_readTo .invalidDimensions (by decide) (List.length_append ▸ hlen), Flow.andThen_go, hheight]
  rfl

theorem decChannels_readTo (hm : s.rdBuf ++ new = m) (hlen : 13 ≤ m.length) :
    decChannels (readTo 12 new tail s) =
      if channelsOk (m.getD 12 0) then .go (readTo 13 new tail { s with metaChannels := m.getD 12 0 })
      else .raise .invalidHeader (readTo 13 new tail s) := by
  subst hm
  have hread : (readTo 13 new tail s).rdBuf.getD 12 0 = (s.rdBuf ++ new).getD 12 0 :=
    getD_eq_of_take_eq (take_readTo 13) (by decide)
  rw [decChannels, fill_readTo .unexpectedEof (by decide) (List.length_append ▸ hlen), Flow.andThen_go, hread]
  rfl

theorem decColorspace_readTo (hm : s.rdBuf ++ new = m) (hlen : 14 ≤ m.length) :
    decColorspace (readTo 13 new tail s) =
      if colorspaceOk (m.getD 13 0) then .go (readTo 14 new tail { s with metaColorspace := m.getD 13 0 })
      else .raise (.invalidColorspace (m.getD 13 0)) (readTo 14 new tail s) := by
  subst hm
  have hread : (readTo 14 new tail s).rdBuf.getD 13 0 = (s.rdBuf ++ new).getD 13 0 :=
    getD_eq_of_take_eq (take_readTo 14) (by decide)
  rw [decColorspace, fill_readTo .unexpectedEof (by decide) (List.length_append ▸ hlen), Flow.andThen_go, hread]
  rfl

/-- With the magic and both dimensions there, what is left of the header is its last two bytes. -/
theorem decHeader_of_dimensions (hm : s.rdBuf ++ new = m) (hlen : 12 ≤ m.length) (hmagic : m.take 4 = Config.magic)
    (hsrc : s.src = delivers new ++ tail) :
    decHeader s = ((decChannels (readTo 12 new tail (dimensionsStored m s))).andThen
      decColorspace).settle fun t => .next (enterBody t) := by
  rw [decHeader, decMagic_readTo hm (by omega) hsrc, if_pos hmagic, Flow.andThen_go, decDimensions_readTo hm hlen,
    Flow.andThen_go]

end

/-! ## A legal header -/

/-- `m` is the beginning of a legal header's bytes, or all of them. -/
def BeginsHeader (m : List Byte) (w h : BitVec 32) (ch cs : Byte) : Prop := m = (headerBytes w h ch cs).take m.length

section

variable {m new : List Byte} {w h : BitVec 32} {ch cs : Byte} {tail : List SrcAnswer} {s : State}

theorem BeginsHeader.take_eq {n : Nat} (hm : BeginsHeader m w h ch cs) (hn : n ≤ m.length) :
    m.take n = (headerBytes w h ch cs).take n := by
  rw [hm, List.take_take, Nat.min_eq_left hn]

theorem BeginsHeader.magic (hm : BeginsHeader m w h ch cs) (hn : 4 ≤ m.length) : m.take 4 = Config.magic :=
  hm.take_eq hn

theorem BeginsHeader.width (hm : BeginsHeader m w h ch cs) (hn : 8 ≤ m.length) : wordAt m 4 = w := by
  rw [wordAt_eq_of_take_eq (hm.take_eq hn) le_rfl]
  simpa [headerBytes, Config.magic] using wordAt_append_wordBytes Config.magic (wordBytes h ++ [ch, cs]) w

theorem BeginsHeader.height (hm : BeginsHeader m w h ch cs) (hn : 12 ≤ m.length) : wordAt m 8 = h := by
  rw [wordAt_eq_of_take_eq (hm.take_eq hn) le_rfl]
  simpa [headerBytes, Config.magic, wordBytes] using wordAt_append_wordBytes (Config.magic ++ wordBytes w) [ch, cs] h

theorem BeginsHeader.dimensionsStored (hm : BeginsHeader m w h ch cs) (hn : 12 ≤ m.length) :
    dimensionsStored m s = { s with metaWidth := w, metaHeight := h } := by
  rw [Sys2Proof.dimensionsStored, hm.width (by omega), hm.height hn]

theorem BeginsHeader.channels (hm : BeginsHeader m w h ch cs) (hn : 13 ≤ m.length) : m.getD 12 0 = ch :=
  getD_eq_of_take_eq (hm.take_eq hn) (by decide)

theorem BeginsHeader.colorspace (hm : BeginsHeader m w h ch cs) (hn : 14 ≤ m.length) : m.getD 13 0 = cs :=
  getD_eq_of_take_eq (hm.take_eq hn) (by decide)

/-- A legal header enters the body, with the bytes read before a wait included (rules R257 to R260). -/
theorem decHeader_of_legal (hm : s.rdBuf ++ new = headerBytes w h ch cs) (hch : channelsOk ch = true)
    (hcs : colorspaceOk cs = true) (hsrc : s.src = delivers new ++ tail) :
    decHeader s = .next (enterBody (afterReads new tail
      { s with metaWidth := w, metaHeight := h, metaChannels := ch, metaColorspace := cs })) := by
  have hbegins : BeginsHeader (headerBytes w h ch cs) w h ch cs := (List.take_length ..).symm
  have hlen : (headerBytes w h ch cs).length = 14 := rfl
  have hall : s.rdBuf.length + new.length ≤ 14 := by rw [← List.length_append, hm, hlen]
  rw [decHeader_of_dimensions hm (by omega) (hbegins.magic (by omega)) hsrc, hbegins.dimensionsStored (by omega),
    decChannels_readTo (s := { s with metaWidth := w, metaHeight := h }) hm (by omega), hbegins.channels (by omega), if_pos hch,
    Flow.andThen_go,
    decColorspace_readTo (s := { s with metaWidth := w, metaHeight := h, metaChannels := ch }) hm (by omega),
    hbegins.colorspace (by omega), if_pos hcs, Flow.settle_go]
  exact congrArg (fun t => Host.Outcome.next (enterBody t)) (readTo_of_length_le hall)

/-- Settles O41: `decHeader_of_legal`, and the pixel count is the product of the two sides. -/
theorem decodeHeaderParses : Obligations.DecodeHeaderParses := by
  intro s w h ch cs new rest hphase hmode hch hcs hsrc hbytes
  refine ⟨enterBody (afterReads new rest { s with metaWidth := w, metaHeight := h, metaChannels := ch, metaColorspace := cs }),
    ?_, toNat_pixelCount w h, rfl⟩
  rw [engineStep_of_decHeader hphase hmode]
  exact decHeader_of_legal hbytes ((channelsOk_iff ch).2 hch) ((colorspaceOk_iff cs).2 hcs) hsrc

/-! ## A header cut short -/

/-- What `Eof` raises in place of the header byte with this number (rules R257 to R260). -/
def eofKindAt (n : Nat) : CoreError :=
  if n < 4 then .invalidHeader else if n < 12 then .invalidDimensions else .unexpectedEof

/-- The registers whose fields stand in the first `n` header bytes have been stored (rules R258, R259). -/
def fieldsStored (n : Nat) (w h : BitVec 32) (ch : Byte) (s : State) : State :=
  { s with
    metaWidth := if 8 ≤ n then w else s.metaWidth
    metaHeight := if 12 ≤ n then h else s.metaHeight
    metaChannels := if 13 ≤ n then ch else s.metaChannels }

/-- Dimensions cut short: the width is stored where it is there in full. -/
theorem decDimensions_short (hm : s.rdBuf ++ new = m) (hbegins : BeginsHeader m w h ch cs) (hlen : m.length < 12)
    (htail : NoByte tail) : decDimensions (readTo 4 new tail s) =
      srcRead .invalidDimensions (afterReads new tail (fieldsStored m.length w h ch s)) := by
  have htotal : s.rdBuf.length + new.length = m.length := by rw [← hm, List.length_append]
  have h12 : ¬12 ≤ m.length := by omega
  have h13 : ¬13 ≤ m.length := by omega
  by_cases h8 : 8 ≤ m.length
  · rw [decDimensions_readTo_width hm h8, hbegins.width h8,
      fill_readTo_short (s := { s with metaWidth := w }) .invalidDimensions (htotal.trans_lt hlen) htail]
    simp only [fieldsStored, if_pos h8, if_neg h12, if_neg h13]
    exact srcRead_andThen _ htail
  · rw [decDimensions, fill_readTo_short .invalidDimensions (by omega) htail]
    simp only [fieldsStored, if_neg h8, if_neg h12, if_neg h13]
    exact srcRead_andThen _ htail

/-- The last two bytes cut short: the channel count is stored where it is there. -/
theorem decChannels_short (hm : s.rdBuf ++ new = m) (hbegins : BeginsHeader m w h ch cs) (hch : channelsOk ch = true)
    (hge : 12 ≤ m.length) (hlen : m.length < 14) (htail : NoByte tail) :
    (decChannels (readTo 12 new tail { s with metaWidth := w, metaHeight := h })).andThen decColorspace =
      srcRead .unexpectedEof (afterReads new tail (fieldsStored m.length w h ch s)) := by
  have htotal : s.rdBuf.length + new.length = m.length := by rw [← hm, List.length_append]
  have h8 : 8 ≤ m.length := by omega
  by_cases h13 : 13 ≤ m.length
  · rw [decChannels_readTo (s := { s with metaWidth := w, metaHeight := h }) hm h13, hbegins.channels h13, if_pos hch,
      Flow.andThen_go, decColorspace,
      fill_readTo_short (s := { s with metaWidth := w, metaHeight := h, metaChannels := ch }) .unexpectedEof
        (htotal.trans_lt hlen) htail]
    simp only [fieldsStored, if_pos h8, if_pos hge, if_pos h13]
    exact srcRead_andThen _ htail
  · rw [decChannels, fill_readTo_short (s := { s with metaWidth := w, metaHeight := h }) .unexpectedEof
        (htotal.trans_lt (Nat.lt_of_not_le h13)) htail]
    simp only [fieldsStored, if_pos h8, if_pos hge, if_neg h13]
    rw [srcRead_andThen _ htail, srcRead_andThen _ htail]

/-- A header that lacks bytes stores the fields it has in full and ends with the read that is not answered with a byte. -/
theorem decHeader_short (hm : s.rdBuf ++ new = m) (hbegins : BeginsHeader m w h ch cs) (hch : channelsOk ch = true)
    (hlen : m.length < 14) (hsrc : s.src = delivers new ++ tail) (htail : NoByte tail) :
    decHeader s = (srcRead (eofKindAt m.length) (afterReads new tail (fieldsStored m.length w h ch s))).settle
      fun t => .next (enterBody t) := by
  by_cases h4 : m.length < 4
  · have hread : (fill 4 .invalidHeader s) = srcRead .invalidHeader (afterReads new tail s) :=
      fill_short _ hsrc (by rwa [← List.length_append, hm]) htail
    have hnone : fieldsStored m.length w h ch s = s := by
      simp only [fieldsStored, if_neg (show ¬8 ≤ m.length by omega), if_neg (show ¬12 ≤ m.length by omega),
        if_neg (show ¬13 ≤ m.length by omega)]
    rw [decHeader, decMagic, hread, eofKindAt, if_pos h4, hnone]
    simp only [srcRead_andThen (s := afterReads new tail s) _ htail]
  rw [eofKindAt, if_neg h4]
  by_cases h12 : m.length < 12
  · rw [decHeader, decMagic_readTo hm (by omega) hsrc, if_pos (hbegins.magic (by omega)), Flow.andThen_go,
      decDimensions_short hm hbegins h12 htail, if_pos h12]
    simp only [srcRead_andThen (s := afterReads new tail (fieldsStored m.length w h ch s)) _ htail]
  · rw [decHeader_of_dimensions hm (by omega) (hbegins.magic (by omega)) hsrc, hbegins.dimensionsStored (by omega),
      decChannels_short hm hbegins hch (by omega) hlen htail, if_neg h12]

/-- What a decode header has read, with the fields it has stored. -/
theorem Answered.headerReads {n : Nat} (hheader : InDecHeader s) (hsrc : s.src = delivers new ++ tail) :
    Answered s (new.map .readByte) (afterReads new tail (fieldsStored n w h ch s)) :=
  { Answered.reads hsrc with
    held := rfl
    values := fun hne => absurd hheader hne }

theorem eofKindAt_kind_byte (n : Nat) : (eofKindAt n).kind =
    (if n < 4 then .invalidHeader else if n < 12 then .invalidDimensions else .unexpectedEof) ∧ (eofKindAt n).byte = 0 := by
  unfold eofKindAt
  split
  · exact ⟨rfl, rfl⟩
  · split <;> exact ⟨rfl, rfl⟩

/-- Settles O43: the read that is answered `Eof` raises the kind of its position. -/
theorem truncatedHeaderByPosition : Obligations.TruncatedHeaderByPosition := by
  intro s m w h ch cs rest hphase hmode hbuf hch hlen hbegins hsrc
  obtain ⟨hkind, hbyte⟩ := eofKindAt_kind_byte m.length
  rw [engineStep_of_decHeader hphase hmode, decHeader_short (by rw [hbuf, List.nil_append]) hbegins ((channelsOk_iff ch).2 hch)
    hlen hsrc (noByte_eof rest), ← hkind, ← hbyte]
  exact settle_srcRead_eof _ _ (.headerReads ⟨hmode, hphase⟩ hsrc) rfl

/-! ## A header refused -/

/-- An error raised by a field of a decode header, after these reads. -/
theorem errorReported_headerField {u : State} (e : CoreError) (hheader : InDecHeader s)
    (hsrc : s.src = delivers new ++ tail) (hheld : heldRegisters u = heldRegisters s) (hagenda : u.agenda = s.agenda)
    (hports : u.src = tail ∧ u.snk = s.snk ∧ u.hist = s.hist ++ new.map .readByte) :
    ErrorReported e.kind e.byte tail s.snk (new.map .readByte) s (errorEntry e u) := by
  obtain ⟨rfl, hsnk, hhist⟩ := hports
  have hops : Answered s (new.map .readByte) u :=
    ⟨hheld, hagenda, absurd hheader, by simpa using hsrc, by simpa using hsnk.symm, hhist⟩
  exact hsnk ▸ hops.errorReported e

theorem decHeader_illegalMagic (hheader : InDecHeader s) (hm : s.rdBuf ++ new = m) (hlen : m.length = 4)
    (hsrc : s.src = delivers new ++ tail) (hmagic : m.take 4 ≠ Config.magic) :
    ∃ t, decHeader s = .next t ∧ ErrorReported .invalidHeader 0 tail s.snk (new.map .readByte) s t := by
  have hall : s.rdBuf.length + new.length ≤ 4 := by rw [← List.length_append, hm, hlen]
  refine ⟨_, ?_, errorReported_headerField (u := afterReads new tail s) .invalidHeader hheader hsrc rfl rfl ⟨rfl, rfl, rfl⟩⟩
  rw [decHeader, decMagic_readTo hm hlen.ge hsrc, if_neg hmagic, readTo_of_length_le hall]
  rfl

theorem decHeader_illegalChannels (hheader : InDecHeader s) (hm : s.rdBuf ++ new = m) (hlen : m.length = 13)
    (hsrc : s.src = delivers new ++ tail) (hmagic : m.take 4 = Config.magic) (hch : ¬channelsOk (m.getD 12 0) = true) :
    ∃ t, decHeader s = .next t ∧ ErrorReported .invalidHeader 0 tail s.snk (new.map .readByte) s t := by
  have hall : (dimensionsStored m s).rdBuf.length + new.length ≤ 13 := by
    rw [← List.length_append]
    exact (congrArg List.length hm).trans_le hlen.le
  refine ⟨_, ?_, errorReported_headerField (u := afterReads new tail (dimensionsStored m s)) .invalidHeader hheader hsrc rfl rfl
    ⟨rfl, rfl, rfl⟩⟩
  rw [decHeader_of_dimensions hm (by omega) hmagic hsrc, decChannels_readTo (s := dimensionsStored m s) hm hlen.ge, if_neg hch,
    readTo_of_length_le hall]
  rfl

theorem decHeader_illegalColorspace (hheader : InDecHeader s) (hm : s.rdBuf ++ new = m)
    (hlen : m.length = 14) (hsrc : s.src = delivers new ++ tail) (hmagic : m.take 4 = Config.magic)
    (hch : channelsOk (m.getD 12 0) = true) (hcs : ¬colorspaceOk (m.getD 13 0) = true) :
    ∃ t, decHeader s = .next t ∧
      ErrorReported .invalidColorspace (m.getD 13 0) tail s.snk (new.map .readByte) s t := by
  have hall : (dimensionsStored m s).rdBuf.length + new.length ≤ 14 := by
    rw [← List.length_append]
    exact (congrArg List.length hm).trans_le hlen.le
  refine ⟨_, ?_, errorReported_headerField
    (u := afterReads new tail { dimensionsStored m s with metaChannels := m.getD 12 0 }) (.invalidColorspace _) hheader hsrc
    rfl rfl ⟨rfl, rfl, rfl⟩⟩
  rw [decHeader_of_dimensions hm (by omega) hmagic hsrc, decChannels_readTo (s := dimensionsStored m s) hm (by omega), if_pos hch,
    Flow.andThen_go, decColorspace_readTo (s := { dimensionsStored m s with metaChannels := m.getD 12 0 }) hm hlen.ge, if_neg hcs]
  exact congrArg (fun t => Host.Outcome.next (errorEntry _ t)) (readTo_of_length_le hall)

/-- Settles O42: each field is checked at the byte that completes it. -/
theorem decodeHeaderRefusesIllegalFields : Obligations.DecodeHeaderRefusesIllegalFields := by
  intro s rest hphase hmode hbuf
  rw [engineStep_of_decHeader hphase hmode]
  have hm (m : List Byte) : s.rdBuf ++ m = m := by rw [hbuf, List.nil_append]
  have htake (m more : List Byte) (hlen : m.length = 12) : (m ++ more).take 4 = m.take 4 :=
    List.take_append_of_le_length (by omega)
  refine ⟨fun m hlen hmagic hsrc => ?_, fun m ch hlen hmagic hch hsrc => ?_, fun m ch cs hlen hmagic hch hcs hsrc => ?_⟩
  · exact decHeader_illegalMagic ⟨hmode, hphase⟩ (hm m) hlen hsrc (by rwa [← hlen, List.take_length])
  · have hread : (m ++ [ch]).getD 12 0 = ch := by simp [← hlen]
    have hbad : ¬channelsOk ch = true := by rw [channelsOk_iff]; tauto
    exact decHeader_illegalChannels ⟨hmode, hphase⟩ (hm _) (by simp [hlen]) hsrc ((htake _ _ hlen).trans hmagic)
      (by rwa [hread])
  · have hreadCh : (m ++ [ch, cs]).getD 12 0 = ch := by simp [← hlen]
    have hreadCs : (m ++ [ch, cs]).getD 13 0 = cs := by simp [hlen]
    have hgood : channelsOk ch = true := (channelsOk_iff ch).2 hch
    have hbad : ¬colorspaceOk cs = true := by rw [colorspaceOk_iff]; tauto
    have hrefused := decHeader_illegalColorspace ⟨hmode, hphase⟩ (hm _) (by simp [hlen]) hsrc ((htake _ _ hlen).trans hmagic)
      (by rwa [hreadCh]) (by rwa [hreadCs])
    rwa [hreadCs] at hrefused

end

end Sys2Proof
end

section
/-! Waiting outside the chunks (rules R57, R313): the encoder, a run continuation and both headers. -/

namespace Sys2Proof

open Machine

theorem emitPixel_wait {s : State} {p : Pixel} {plan : EncPlan} {k : Nat} (hplan : encPlan s.cache s.run p s.prev = some plan)
    (hk : k < (plan.out.drop s.wrCnt).length) (hsnk : s.snk = oks k) :
    emitPixel p s = .next { s with
      snk := [], wrCnt := s.wrCnt + k, hist := s.hist ++ ((plan.out.drop s.wrCnt).take k).map .wrote } := by
  simp only [emitPixel, hplan]
  exact settle_drain_wait _ hk hsnk

/-- Settles O60: each of the four writers waits with its output, and the decode header with the fields it has in full. -/
theorem unansweredPortRetainsRegisters : Obligations.UnansweredPortRetainsRegisters := by
  refine ⟨?pixel, ?continuation, ?encHeader, ?finish, ?decHeader⟩
  case pixel =>
    intro s p plan new rest k hat hsrc hbytes ha hplan hk hsnk
    rw [engineStep_of_atEncodeStep hat, encPixelStep_of_delivers hsrc hbytes ha]
    exact emitPixel_wait (s := afterReads new rest s) hplan hk hsnk
  case continuation =>
    intro s k hat hrun hk hsnk
    rw [engineStep_of_run_ne_zero hat hrun]
    exact settle_drain_wait _ hk hsnk
  case encHeader =>
    rintro s _ k hphase hmode hch hcs rfl hk hsnk
    rw [engineStep_of_legalHeader hphase hmode hch hcs]
    exact settle_drain_wait _ hk hsnk
  case finish =>
    intro s out k hphase hrun hout hk hsnk
    rw [engineStep_of_trailer hphase hrun hout]
    exact settle_drain_wait _ hk hsnk
  case decHeader =>
    rintro s _ new w h ch cs hphase hmode hch hlen hbegins hsrc rfl
    rw [engineStep_of_decHeader hphase hmode,
      decHeader_short rfl hbegins ((channelsOk_iff ch).2 hch) hlen (tail := []) (by simpa using hsrc) noByte_nil]
    exact settle_srcRead_wait _ _ rfl

end Sys2Proof
end

section
/-! What the host does and sees: commands (rules R250, R251, R256), register writes and reads (rules R32 to R39), hardware reset
(rule R330). -/

namespace Sys2Proof

open Machine

theorem busy_eq_false_iff (ph : Phase) : ph.busy = false ↔ ph = .idle ∨ ph = .done ∨ ph = .error := by
  cases ph <;> simp [Phase.busy]

theorem busy_eq_true_iff (ph : Phase) : ph.busy = true ↔ ph = .header ∨ ph = .body ∨ ph = .trailer ∨ ph = .flush := by
  cases ph <;> simp [Phase.busy]

theorem command_of_rest (m : Mode) {s : State} (h : s.phase.busy = false) : command m s = startCall m s :=
  if_neg (by rw [h]; nofun)

theorem command_of_busy (m : Mode) {s : State} (h : s.phase.busy = true) : command m s = s :=
  if_pos h

theorem hostWrite_of_rest (w : MetaWrite) {s : State} (h : s.phase.busy = false) : hostWrite w s = writeMeta w s :=
  if_neg (by rw [h]; nofun)

theorem hostWrite_of_busy (w : MetaWrite) {s : State} (h : s.phase.busy = true) : hostWrite w s = s :=
  if_pos h

/-- Settles O44: a resting engine accepts the command, and `startCall` writes these registers. -/
theorem commandStartsCall : Obligations.CommandStartsCall := by
  intro s hphase
  have hrest : s.phase.busy = false := (busy_eq_false_iff _).2 hphase
  exact ⟨command_of_rest .enc hrest, command_of_rest .dec hrest⟩

/-- Settles O45: a busy engine ignores commands and writes; a resting one writes the register. -/
theorem busyEngineIgnoresHost : Obligations.BusyEngineIgnoresHost := by
  intro s
  constructor
  · intro hphase
    have hbusy : s.phase.busy = true := (busy_eq_true_iff _).2 hphase
    exact ⟨command_of_busy .enc hbusy, command_of_busy .dec hbusy, fun w => hostWrite_of_busy w hbusy⟩
  · intro hphase
    have hrest : s.phase.busy = false := (busy_eq_false_iff _).2 hphase
    exact ⟨fun v => hostWrite_of_rest (.width v) hrest, fun v => hostWrite_of_rest (.height v) hrest,
      fun v => hostWrite_of_rest (.channels v) hrest, fun v => hostWrite_of_rest (.colorspace v) hrest⟩

/-- Settles O46: `hwReset` keeps what is outside the engine, and `IDLE` is a resting phase. -/
theorem hardwareResetRestoresRegisters : Obligations.HardwareResetRestoresRegisters :=
  fun s => ⟨rfl, engineStep_of_rest (s := hwReset s) rfl⟩

/-- A host read of a register of `n` bits, at most 32, is the register zero-extended. -/
theorem toNat_setWidth_32 {n : Nat} (v : BitVec n) (hn : n ≤ 32) : (v.setWidth 32).toNat = v.toNat :=
  BitVec.toNat_setWidth_of_le hn

/-- Settles O47: the reset values field by field; the codes case by case. -/
theorem resetRegisterValues : Obligations.ResetRegisterValues := by
  refine ⟨fun idx => lookup_replicate _ idx, rfl, rfl, rfl, rfl, rfl, rfl, rfl, fun reg => ?_, rfl, rfl, fun s => ?_⟩
  · cases reg <;> rfl
  refine ⟨?mode, rfl, rfl, toNat_setWidth_32 _ (by decide), toNat_setWidth_32 _ (by decide), ?phase, ?errKind,
    toNat_setWidth_32 _ (by decide), decide_eq_true_iff, decide_eq_true_iff⟩
  case mode => rw [State.hostRead]; cases s.mode <;> rfl
  case phase => rw [State.hostRead]; cases s.phase <;> rfl
  case errKind => rw [State.hostRead]; cases s.errKind <;> rfl

/-- Settles O49: a started call holds nothing of the state before it but `META_*` and what is outside the engine. -/
theorem callStartsFresh : Obligations.CallStartsFresh := by
  intro m s u hs hu hwidth hheight hchannels hcolorspace hsrc hsnk hagenda hhist hfree
  rw [command_of_rest m hs, command_of_rest m hu]
  simp only [startCall, endStep, initCodec, hwidth, hheight, hchannels, hcolorspace, hsrc, hsnk, hagenda, hhist, hfree]

end Sys2Proof
end
